-- ==== Sys2Proof/Word.lean ====
section
/-! DEFINITION. The byte and the 16-bit field of the 4120, the only two values the manual treats as bits. -/

namespace Sys2Proof

/-- One byte of the register window, of a parameter, an answer, a report or raster memory (R161, R124). -/
abbrev Byte := BitVec 8

/-- A field of two bytes of a report record (R152, R180). -/
abbrev Half := BitVec 16

end Sys2Proof
end

