-- ==== Sys2Proof/Config.lean ====
section
/-! DEFINITION. What the part fixes: sizes, limits and code values of the manual, and the free values (the ROM dots, and the
levels of the shift clock). -/

namespace Sys2Proof.Config

/-- Raster memory holds 65,536 bytes (R124). -/
abbrev memSize : Nat := 65536

/-- The placement table has 64 slots (R23). -/
abbrev slotCount : Nat := 64

/-- The parameter buffer holds at most 48 bytes (R163). -/
abbrev paramMax : Nat := 48

/-- The answer buffer holds at most 128 bytes (R169). -/
abbrev answerMax : Nat := 128

/-- The upload FIFO holds at most 8 bytes (R136). -/
abbrev fifoDepth : Nat := 8

/-- The report queue holds at most 16 records (R151). -/
abbrev queueMax : Nat := 16

/-- The strobe ceiling: pre-heat time plus main time, in microseconds (R100). -/
abbrev strobeCeiling : Nat := 2500

/-- Command codes (R178). -/
abbrev codeSetHead : Byte := 0x10
@[inherit_doc codeSetHead] abbrev codeSetBands : Byte := 0x11
@[inherit_doc codeSetHead] abbrev codeDefineGlyph : Byte := 0x20
@[inherit_doc codeSetHead] abbrev codeRestoreGlyph : Byte := 0x21
@[inherit_doc codeSetHead] abbrev codeOpenJob : Byte := 0x30
@[inherit_doc codeSetHead] abbrev codeCommit : Byte := 0x31
@[inherit_doc codeSetHead] abbrev codeCloseJob : Byte := 0x32
@[inherit_doc codeSetHead] abbrev codeAbortJob : Byte := 0x33
@[inherit_doc codeSetHead] abbrev codeQueryJob : Byte := 0x34
@[inherit_doc codeSetHead] abbrev codePlace : Byte := 0x40
@[inherit_doc codeSetHead] abbrev codeWithdraw : Byte := 0x41
@[inherit_doc codeSetHead] abbrev codeLoadSegment : Byte := 0x50
@[inherit_doc codeSetHead] abbrev codeStopUpload : Byte := 0x51
@[inherit_doc codeSetHead] abbrev codeProof : Byte := 0x60
@[inherit_doc codeSetHead] abbrev codeSoftReset : Byte := 0xA5

/-- The codes that name a command (R178); every other code names none (R167). -/
def commandCodes : List Byte :=
  [codeSetHead, codeSetBands, codeDefineGlyph, codeRestoreGlyph, codeOpenJob, codeCommit,
   codeCloseJob, codeAbortJob, codeQueryJob, codePlace, codeWithdraw, codeLoadSegment,
   codeStopUpload, codeProof, codeSoftReset]

/-- The dot patterns of the ROM glyphs of codes 21h to 7Eh, which the manual does not give (R48): a FREE VALUE
(log entry 11), one fixed bitmap of the part for every code. Row and column are counted from 0 at the top left of the cell. -/
opaque romPattern : Byte → Nat → Nat → Bool

/-- The level of SCLK while it is inactive. The manual gives no sense of the pin (R122, R181): a FREE VALUE (log entry 17). -/
opaque sclkIdle : Bool

/-- How many CLKIN periods of a shift-clock period pass before SCLK goes active, less a multiple of 4. The manual gives the rate
(R109) and no waveform: a FREE VALUE (log entry 17). -/
opaque sclkLead : Nat

/-- How many CLKIN periods beyond the first SCLK stays active, less a multiple of 3: a FREE VALUE (log entry 17). -/
opaque sclkStay : Nat

/-- The level of SCLK in each of the four CLKIN periods of the latch pulse, where the manual does not say whether the shift clock
runs: a FREE VALUE (log entry 17). -/
opaque sclkInLatch : Nat → Bool

end Sys2Proof.Config
end

