-- ==== Sys2Proof/Syntax.lean ====
section
/-! DEFINITION. The commands of the block: one constructor for each row of opcode_table.json. -/

namespace Sys2Proof

/-- What reaches the part: commands offered by a write to offset 2 (CMD), the other window accesses, the pins, and the
ends of the operations the part carries out by itself. A command's parameters are the bytes of the parameter buffer
(R164), so its row carries no operand (log entry 1). -/
inductive Instr where
  /-- A CMD write of A5h (R175). -/
  | softReset
  /-- A CMD write of 10h (R100). -/
  | setHead
  /-- A CMD write of 11h (R62). -/
  | setBands
  /-- A CMD write of 20h (R52). -/
  | defineGlyph
  /-- A CMD write of 21h (R54). -/
  | restoreGlyph
  /-- A CMD write of 30h (R6). -/
  | openJob
  /-- A CMD write of 40h (R34). -/
  | place
  /-- A CMD write of 41h (R39). -/
  | withdraw
  /-- A CMD write of 31h (R8). -/
  | commit
  /-- A CMD write of 32h (R9). -/
  | closeJob
  /-- A CMD write of 33h (R16). -/
  | abortJob
  /-- A CMD write of 34h (R10). -/
  | queryJob
  /-- A CMD write of 50h (R138). -/
  | loadSegment
  /-- A CMD write of 51h (R148). -/
  | stopUpload
  /-- A CMD write of 60h (R73). -/
  | proof
  /-- A CMD write of a code that names no command (R167). -/
  | unknownCommand (code : Byte)
  /-- A CMD write offered while a command is busy or READY is 0 (R165). -/
  | cmdWriteRefused (code : Byte)
  /-- The PROOF copy completes (R74). -/
  | proofCopyComplete
  /-- A write to offset 3 (R163). -/
  | paramWrite (value : Byte)
  /-- A read of offset 4 (R169). -/
  | answerRead
  /-- A write to offset 5 (R140). -/
  | dataWrite (value : Byte)
  /-- A read of offset 5 (R143). -/
  | dataRead
  /-- A read of offset 6 (R154). -/
  | reportRead
  /-- A write to offset 7 (R156). -/
  | irqPendWrite (value : Byte)
  /-- A write to offset 8 (R159). -/
  | irqEnWrite (value : Byte)
  /-- A read of offset C (R173). -/
  | rowDoneLowRead
  /-- A write to offset F (R172). -/
  | stickyWrite (value : Byte)
  /-- A write to an offset marked Discarded (R161). -/
  | registerWriteDiscarded (offset : BitVec 4) (value : Byte)
  /-- The RESET pin is asserted (R132). -/
  | resetAsserted
  /-- The RESET pin is released (R133). -/
  | resetReleased
  /-- The last byte of the power-on clear is written (R133). -/
  | powerOnClearComplete
  /-- A rising edge on LSTEP (R105). -/
  | lineStep
  /-- The HOT input goes to the given level (R157, log entry 21). -/
  | hotChange (asserted : Bool)
  /-- The PAPER input goes to the given level (R157, log entry 21). -/
  | paperChange (present : Bool)
  /-- The fetch of a line ends (R108). -/
  | lineFetchEnd
  /-- The latch pulse that ends a shift completes (R109). -/
  | shiftEnd
  /-- A strobe pulse ends (R110). -/
  | strobePulseEnd
  /-- The hot-hold timer expires (R120). -/
  | hotHoldExpire
  /-- The renderer completes its band (R96). -/
  | bandComplete
  /-- A store of the upload channel is performed (R141). -/
  | uploadStore
  /-- A prefetch of the upload channel is performed (R142). -/
  | uploadPrefetch
  deriving DecidableEq, Repr

end Sys2Proof
end

