-- ==== Sys2Proof/Decode.lean ====
section
/-! DEFINITION. The decoder of table words: the table of this block gives no row any bits. -/

namespace Sys2Proof

/-- The command a word spells by the table's bits. No row of opcode_table.json has bits (98_reader.md counts 0 rows with
fixed bits or fields): the part takes window accesses, pin events and ends of operations, so no word spells a command. -/
def decodeTableWord (_nbits _w : Nat) : Option Instr := none

end Sys2Proof
end

