-- ==== Sys2Proof/Machine/State.lean ====
section
/-! DEFINITION. The state of the 4120, block by block, and its value at the release of RESET. Plain data throughout. -/

namespace Sys2Proof.Machine

/-- Why the machine stops. -/
inductive Fault where
  /-- An event would access raster memory above FFFFh. Raised by the events that reach memory (the end of a fetch, of a
  PROOF copy or of a band, a store, a prefetch) and by the internal step. Safe: the manual says that every address the
  part forms lies inside memory (R124), so the part never gets there (log entry 14). -/
  | addressOutsideMemory
  deriving DecidableEq, Repr

/-- Why the model gives no meaning. -/
inductive Refusal where
  /-- The command has no meaning in the model. Raised by no arm of exec. Safe. -/
  | notModelled (mnemonic : String)
  deriving DecidableEq, Repr

/-! ### Jobs (chapter 1) -/

/-- The cause an abort records (R2, R17). -/
inductive AbortCause where
  | host | underrun | stepLost | headHot
  deriving DecidableEq, Repr

/-- The state of a job record (R2). The abort cause is present in ABORTING alone. -/
inductive JobState where
  | opened | closed | aborting (cause : AbortCause)
  deriving DecidableEq, Repr

/-- The underrun policy (R2). -/
inductive Policy where
  | blank | abort
  deriving DecidableEq, Repr

/-- A job record (R2). -/
structure Job where
  tag : Byte
  length : Nat
  trailing : Nat
  policy : Policy
  state : JobState
  commitRow : Nat
  rendered : Nat
  done : Nat
  blankRows : Nat
  deriving DecidableEq, Repr

/-- The job table: two positions, each FREE (none) or holding a record (R1). -/
structure JobTable where
  front : Option Job
  back : Option Job
  deriving DecidableEq, Repr

/-! ### Placements (chapter 2) -/

/-- How a source dot is combined into the band (R28). -/
inductive CombineOp where
  | setOr | xor | clear | replace
  deriving DecidableEq, Repr

/-- The kind of a placement with its kind part (R27). -/
inductive PlaceKind where
  | glyphs (spacing : Nat) (codes : List Byte)
  | image (source stride : Nat)
  | bar
  deriving DecidableEq, Repr

/-- The repeat part of a placement (R32). -/
structure Repetition where
  count : Nat
  pitch : Nat
  deriving DecidableEq, Repr

/-- A placement record (R27). `active` tells ACTIVE from PENDING. -/
structure Placement where
  handle : Nat
  job : Byte
  kind : PlaceKind
  op : CombineOp
  inverse : Bool
  notify : Bool
  top : Nat
  left : Nat
  width : Nat
  height : Nat
  repetition : Option Repetition
  active : Bool
  lastRow : Nat
  deriving DecidableEq, Repr

/-! ### Glyph store (chapter 3) -/

/-- A RAM descriptor (R47). -/
structure RamGlyph where
  width : Nat
  height : Nat
  advance : Nat
  base : Nat
  deriving DecidableEq, Repr

/-- What a reading of a descriptor finds (R47). -/
inductive GlyphDesc where
  | undefined
  | rom
  | ram (g : RamGlyph)
  deriving DecidableEq, Repr

/-- A code whose descriptor is a RAM descriptor. -/
structure GlyphEntry where
  code : Byte
  glyph : RamGlyph
  deriving DecidableEq, Repr

/-! ### The band ring (chapter 4) -/

/-- The states of a band that is not FREE (R64). -/
inductive BandState where
  | rendering | ready | printing
  deriving DecidableEq, Repr

/-- The record of a band that is not FREE (R64). -/
structure Band where
  state : BandState
  job : Byte
  first : Nat
  count : Nat
  deriving DecidableEq, Repr

/-- The band configuration, the N band records (none is FREE) and the claim index (R60, R64, R65). -/
structure Ring where
  base : Nat
  h : Nat
  n : Nat
  bands : List (Option Band)
  claim : Nat
  deriving DecidableEq, Repr

/-! ### The renderer (chapter 5) -/

/-- The band a look chose (R79). -/
structure Chosen where
  job : Byte
  first : Nat
  count : Nat
  deriving DecidableEq, Repr

/-- A glyph of a run as one reading of its descriptor laid it (R56, R90). -/
structure Laid where
  code : Byte
  x : Nat
  desc : GlyphDesc
  deriving DecidableEq, Repr

/-- A copy of a placement that has a drawn part in the band (R86). -/
structure CopyRef where
  handle : Nat
  copy : Nat
  deriving DecidableEq, Repr

/-- The renderer's place in the band (R76). -/
inductive Cursor where
  /-- The clearing phase (R85): so many bytes of the band's lines are still to clear. -/
  | clearing (left : Nat)
  /-- The readings of the glyphs of the copy at the head of the work: those taken so far (R90). -/
  | reading (laid : List Laid)
  /-- A row of the copy at the head of the work: the readings, the job row, the source bytes read, the band bytes
  finished, and the band byte read and not yet written back (R87, R89, R90). -/
  | drawing (laid : List Laid) (row : Nat) (src : List Byte) (col : Nat) (held : Option Byte)
  /-- The last entry has been drawn: the band is complete (R96). -/
  | finished
  deriving DecidableEq, Repr

/-- The renderer's work on the band it has claimed: the band, its draw list, the copies still to draw (the one at the
head is the one at the cursor) and the cursor (R76, R84, R86). -/
structure Work where
  band : Nat
  job : Byte
  first : Nat
  count : Nat
  drawList : List Nat
  todo : List CopyRef
  cursor : Cursor
  deriving DecidableEq, Repr

/-- The state of the renderer (R77). -/
inductive Renderer where
  | idle
  | waitCommit (chosen : Chosen)
  | waitBand (chosen : Chosen)
  | rendering (work : Work)
  deriving DecidableEq, Repr

/-! ### The head channel (chapter 6) -/

/-- The head configuration (R99): MHz, dots, groups, microseconds, microseconds, milliseconds. -/
structure HeadConfig where
  timeBase : Nat
  dots : Nat
  groups : Nat
  preheat : Nat
  main : Nat
  hold : Nat
  deriving DecidableEq, Repr

/-- The pass of a line (R110). -/
inductive Pass where
  | pre | main
  deriving DecidableEq, Repr

/-- What a line in flight is doing (R102). The counts are the CLKIN periods left of the shift, of the pulse and of the
hot-hold timer. -/
inductive LinePhase where
  | fetch
  | shift (pass : Pass) (periods : Nat)
  | strobe (pass : Pass) (periods : Nat)
  | hold (pass : Pass) (periods : Nat)
  deriving DecidableEq, Repr

/-- The line in flight (R101): its row, job and band, where its band line lies, the bytes fetched, the new-dots line,
the group reached, and whether it is ending (R116). -/
structure Line where
  row : Nat
  job : Byte
  band : Nat
  addr : Nat
  bytes : List Byte
  newDots : List Byte
  group : Nat
  ending : Bool
  deriving DecidableEq, Repr

/-- The state of the head channel (R102). -/
inductive HeadMode where
  | idle
  | waitLine
  | armed
  | inFlight (phase : LinePhase) (line : Line)
  deriving DecidableEq, Repr

/-- The head channel (R101). -/
structure Head where
  mode : HeadMode
  history : List Byte
  latch : Bool
  started : Bool
  deriving DecidableEq, Repr

/-! ### Raster memory and the arbiter (chapter 7) -/

/-- Raster memory: the bytes that are not 00h, addresses strictly rising (R124). -/
abbrev Memory := List Host.Cell

/-- The rotating clients, in rotating order (R127). -/
inductive Rotating where
  | renderer | upload | port
  deriving DecidableEq, Repr

/-- The clients of the arbiter (R126). -/
inductive Client where
  | fetch
  | rotating (c : Rotating)
  deriving DecidableEq, Repr

/-- A request for one access: an address, and for a write the byte (R127). -/
structure Request where
  addr : Nat
  write : Option Byte
  deriving DecidableEq, Repr

/-- The access in progress (R127). `live` is false once the operation it belongs to has ended (R129): it is still
performed, and advances nothing. -/
structure Access where
  client : Client
  addr : Nat
  write : Option Byte
  live : Bool
  deriving DecidableEq, Repr

/-- The arbiter (R127). -/
structure Arbiter where
  inProgress : Option Access
  rotation : Rotating
  deriving DecidableEq, Repr

/-! ### The upload channel (chapter 8) -/

/-- The direction of a segment (R137). -/
inductive Direction where
  | dirIn | dirOut
  deriving DecidableEq, Repr

/-- A segment record (R137). The cursor is an address and a position within its row. -/
structure Segment where
  direction : Direction
  address : Nat
  rowBytes : Nat
  rows : Nat
  stride : Nat
  notify : Bool
  cursor : Nat
  position : Nat
  bytesLeft : Nat
  deriving DecidableEq, Repr

/-- The upload channel (R136). -/
structure Upload where
  cur : Option Segment
  nxt : Option Segment
  fifo : List Byte
  deriving DecidableEq, Repr

/-! ### Reports and interrupts (chapter 9) -/

/-- The kind of a report record (R152). -/
inductive ReportKind where
  | printStarted | jobDone | jobAborted | underrun | retired | segmentDone
  deriving DecidableEq, Repr

/-- A report record (R152). -/
structure Report where
  kind : ReportKind
  tag : Byte
  handle : Byte
  detail : Byte
  row : Half
  extra : Half
  deriving DecidableEq, Repr

/-- The report queue, oldest first, and its read position (R151). -/
structure ReportQueue where
  records : List Report
  readPos : Nat
  deriving DecidableEq, Repr

/-- One bit for each interrupt source (R156). -/
structure Sources where
  report : Bool
  uploadNext : Bool
  input : Bool
  done : Bool
  deriving DecidableEq, Repr

/-- The interrupt unit: the latched sources, the enables, and the copy of the input levels (R156, R157, R159). -/
structure IrqUnit where
  input : Bool
  done : Bool
  enable : Sources
  seenHot : Bool
  seenPaper : Bool
  deriving DecidableEq, Repr

/-! ### The command port (chapter 10) -/

/-- The result codes (R168). -/
inductive ResultCode where
  | ok | unknownCommand | badLength | badParam | badState | range | zone | late
  | tooLate | tableFull | noSuchHandle | noJob | dupTag | badGlyph | slotsFull | notHeld
  deriving DecidableEq, Repr

/-- The sticky flags (R172). -/
structure Sticky where
  cmdRefused : Bool
  paramSpill : Bool
  dataSpill : Bool
  dataShort : Bool
  reportsLost : Bool
  deriving DecidableEq, Repr

/-- A PROOF copy in progress: the band under the PROOF hold, the address of the line and the bytes copied (R74). -/
structure ProofCopy where
  band : Nat
  addr : Nat
  copied : List Byte
  deriving DecidableEq, Repr

/-- The command port (R162 to R176). -/
structure Port where
  params : List Byte
  answer : List Byte
  answerPos : Nat
  result : ResultCode
  cmd : Byte
  busy : Bool
  sticky : Sticky
  capture : Byte
  proof : Option ProofCopy
  deriving DecidableEq, Repr

/-- Where the part stands between the RESET pin and READY: RESET asserted (R132), the power-on clear about to write an
address (R133), or READY (R162). -/
inductive PowerPhase where
  | held
  | clearing (next : Nat)
  | ready
  deriving DecidableEq, Repr

/-- The 4120, block by block, its input levels, the last byte driven on D7 to D0, and the queue of commands waiting. -/
structure State where
  phase : PowerPhase
  hot : Bool
  paper : Bool
  dataOut : Byte
  port : Port
  jobs : JobTable
  placements : List Placement
  glyphs : List GlyphEntry
  ring : Ring
  renderer : Renderer
  headCfg : HeadConfig
  head : Head
  mem : Memory
  arbiter : Arbiter
  upload : Upload
  reports : ReportQueue
  irq : IrqUnit
  pending : List Instr
  deriving DecidableEq, Repr

/-! ### Reset -/

/-- The command port at the release of RESET (R176). -/
def Port.reset : Port :=
  ⟨[], [], 0, .ok, 0x00, false, ⟨false, false, false, false, false⟩, 0x00, none⟩

/-- The band ring at the release of RESET: base 0000h, H = 16, N = 4, every band FREE, claim index 0 (R60, R64, R65). -/
def Ring.reset : Ring := ⟨0, 16, 4, [none, none, none, none], 0⟩

/-- The head configuration at the release of RESET (R99). -/
def HeadConfig.reset : HeadConfig := ⟨16, 384, 2, 0, 600, 500⟩

/-- The head channel at the release of RESET: IDLE, history all zero for 384 dots (R101). -/
def Head.reset : Head := ⟨.idle, List.replicate 48 0x00, false, false⟩

/-- The interrupt unit at the release of RESET, with the copy of the given input levels (R160). -/
def IrqUnit.reset (hot paper : Bool) : IrqUnit :=
  ⟨false, false, ⟨false, false, false, false⟩, hot, paper⟩

/-- The part right after the RESET pin is released, its inputs at the given levels: the power-on clear is about to
write address 0000h and every block holds its power-on values (R133). -/
def State.powerOn (hot paper : Bool) : State where
  phase := .clearing 0
  hot := hot
  paper := paper
  dataOut := 0x00
  port := Port.reset
  jobs := ⟨none, none⟩
  placements := []
  glyphs := []
  ring := Ring.reset
  renderer := .idle
  headCfg := HeadConfig.reset
  head := Head.reset
  mem := []
  arbiter := ⟨none, .port⟩
  upload := ⟨none, none, []⟩
  reports := ⟨[], 0⟩
  irq := IrqUnit.reset hot paper
  pending := []

/-- The machine right after reset. HOT reads not asserted and PAPER present, as in the start-up of 11.1
(DESIGN CHOICE, log entry 3). -/
def State.reset : State := State.powerOn false true

end Sys2Proof.Machine
end

