-- ==== Sys2Proof/Machine/Operands.lean ====
section
/-! DEFINITION. Byte order, code values and the parameter fields of the commands (R177 to R180). -/

namespace Sys2Proof.Machine

/-! ### Byte order: every field is sent low byte first (11.6) -/

/-- The value of a two-byte field, low byte first. -/
def le16 (lo hi : Byte) : Nat := lo.toNat + 256 * hi.toNat

/-- A number as one byte, less a multiple of 256. -/
def byteOf (n : Nat) : Byte := BitVec.ofNat 8 n

/-- A number as two bytes, low byte first. -/
def bytes2 (n : Nat) : List Byte := [byteOf n, byteOf (n / 256)]

/-- A number as three bytes, low byte first. -/
def bytes3 (n : Nat) : List Byte := [byteOf n, byteOf (n / 256), byteOf (n / 65536)]

/-- A number as a 16-bit field, less a multiple of 65,536 (R152). -/
def halfOf (n : Nat) : Half := BitVec.ofNat 16 n

/-- The two bytes of a 16-bit field, low byte first (R180). -/
def halfBytes (h : Half) : List Byte := bytes2 h.toNat

/-- The bytes that hold so many dots: ceil(n / 8) (R30, R50). -/
def ceil8 (n : Nat) : Nat := (n + 7) / 8

/-- Dot i of a byte, counted from the left: the leftmost dot is the most significant bit (R125). -/
def dotOf (b : Byte) (i : Nat) : Bool := b.getMsbD i

/-- The byte whose dots, from the left, are d 0 to d 7 (R125). -/
def byteOfDots (d : Nat → Bool) : Byte :=
  BitVec.ofBoolListBE [d 0, d 1, d 2, d 3, d 4, d 5, d 6, d 7]

/-! ### Code values -/

/-- Result codes (R178). -/
def ResultCode.code : ResultCode → Byte
  | .ok => 0x00
  | .unknownCommand => 0x01
  | .badLength => 0x02
  | .badParam => 0x03
  | .badState => 0x04
  | .range => 0x05
  | .zone => 0x06
  | .late => 0x07
  | .tooLate => 0x08
  | .tableFull => 0x09
  | .noSuchHandle => 0x0A
  | .noJob => 0x0B
  | .dupTag => 0x0C
  | .badGlyph => 0x0D
  | .slotsFull => 0x0E
  | .notHeld => 0x0F

/-- Abort causes, as QUERY_JOB and JOB_ABORTED carry them (R179, R180). -/
def AbortCause.code : AbortCause → Byte
  | .host => 0x01
  | .underrun => 0x02
  | .stepLost => 0x03
  | .headHot => 0x04

/-- Job states, as QUERY_JOB and JOB_STATE carry them (R177, R179). -/
def JobState.code : JobState → Byte
  | .opened => 0x01
  | .closed => 0x02
  | .aborting _ => 0x03

/-- The abort cause of a QUERY_JOB answer: NONE unless the state is ABORTING (R10, R179). -/
def JobState.causeCode : JobState → Byte
  | .aborting c => c.code
  | _ => 0x00

/-- Policies (R178, R179). -/
def Policy.code : Policy → Byte
  | .blank => 0x00
  | .abort => 0x01

/-- Report kinds (R180). -/
def ReportKind.code : ReportKind → Byte
  | .printStarted => 0x01
  | .jobDone => 0x02
  | .jobAborted => 0x03
  | .underrun => 0x04
  | .retired => 0x05
  | .segmentDone => 0x06

/-- Directions, as SEGMENT_DONE carries them (R180). -/
def Direction.code : Direction → Byte
  | .dirIn => 0x01
  | .dirOut => 0x02

/-- The eight bytes of a report record, in reading order (R180). -/
def Report.bytes (r : Report) : List Byte :=
  [r.kind.code, r.tag, r.handle, r.detail] ++ halfBytes r.row ++ halfBytes r.extra

/-- The policy byte of OPEN_JOB (R178). -/
def policyOf (b : Byte) : Option Policy :=
  if b = 0x00 then some .blank else if b = 0x01 then some .abort else none

/-- Bits 1 to 0 of the op-and-flags byte of PLACE (R178). -/
def combineOpOf (b : Byte) : CombineOp :=
  match b.toNat % 4 with
  | 0 => .setOr
  | 1 => .xor
  | 2 => .clear
  | _ => .replace

/-! ### The parameters of PLACE (R33, R35) -/

/-- The common part of PLACE that passed check 3. -/
structure PlaceCommon where
  op : CombineOp
  inverse : Bool
  notify : Bool
  top : Nat
  left : Nat
  repetition : Option Repetition
  deriving DecidableEq, Repr

/-- The kind part of PLACE that passed check 3. -/
inductive PlaceBody where
  | bar (width height : Nat)
  | image (width height source stride : Nat)
  | glyphs (spacing : Nat) (codes : List Byte)
  deriving DecidableEq, Repr

/-- The parameters of PLACE. -/
structure PlaceParams where
  common : PlaceCommon
  body : PlaceBody
  deriving DecidableEq, Repr

/-- The repeat part: a count of 0 is absent, a count of 1 is refused, and with a count of 2 or more the pitch is 1 to
4096 (R33, R35). -/
def parseRepetition (count pitch : Nat) : Option (Option Repetition) :=
  if count = 0 then some none
  else if 2 ≤ count ∧ 1 ≤ pitch ∧ pitch ≤ 4096 then some (some ⟨count, pitch⟩)
  else none

/-- The pitch of a repeat part is at least the height (R32). -/
def pitchCovers (r : Option Repetition) (height : Nat) : Bool :=
  match r with
  | none => true
  | some r => decide (height ≤ r.pitch)

/-- The common part of PLACE after the kind byte, judged by check 3 of R34 (R35): none is BAD_PARAM. -/
def parseCommon (flags t0 t1 l0 l1 count p0 p1 : Byte) : Option PlaceCommon :=
  match parseRepetition count.toNat (le16 p0 p1) with
  | none => none
  | some rep =>
    if flags &&& 0xCC = 0x00 ∧ le16 l0 l1 ≤ 1023 then
      some ⟨combineOpOf flags, flags.getLsbD 4, flags.getLsbD 5, le16 t0 t1, le16 l0 l1, rep⟩
    else none

/-- The given width and height of an IMAGE or BAR are in range (R35). -/
def extentOk (c : PlaceCommon) (width height : Nat) : Bool :=
  decide (1 ≤ width ∧ width ≤ 1024 ∧ 1 ≤ height ∧ height ≤ 4096) && pitchCovers c.repetition height

/-- The kind part of PLACE for each kind byte (R33, R35): BAD_LENGTH by check 2, BAD_PARAM by check 3. -/
def parseBody (kind : Byte) (common : Option PlaceCommon) (rest : List Byte) : Except ResultCode PlaceParams :=
  if kind = 0x03 then
    match rest with
    | [w0, w1, h0, h1] =>
      match common with
      | some c =>
        if extentOk c (le16 w0 w1) (le16 h0 h1) then .ok ⟨c, .bar (le16 w0 w1) (le16 h0 h1)⟩ else .error .badParam
      | none => .error .badParam
    | _ => .error .badLength
  else if kind = 0x02 then
    match rest with
    | [w0, w1, h0, h1, a0, a1, stride] =>
      match common with
      | some c =>
        if extentOk c (le16 w0 w1) (le16 h0 h1) ∧ 1 ≤ stride.toNat ∧ stride.toNat ≤ 128 ∧
            ceil8 (le16 w0 w1) ≤ stride.toNat then
          .ok ⟨c, .image (le16 w0 w1) (le16 h0 h1) (le16 a0 a1) stride.toNat⟩
        else .error .badParam
      | none => .error .badParam
    | _ => .error .badLength
  else if kind = 0x01 then
    match rest with
    | spacing :: code :: codes =>
      if codes.length ≤ 31 then
        match common with
        | some c =>
          if spacing.toNat ≤ 15 then .ok ⟨c, .glyphs spacing.toNat (code :: codes)⟩ else .error .badParam
        | none => .error .badParam
      else .error .badLength
    | _ => .error .badLength
  else .error .badParam

/-- Checks 2 and 3 of PLACE (R33, R34, R35). -/
def parsePlace (params : List Byte) : Except ResultCode PlaceParams :=
  match params with
  | kind :: flags :: t0 :: t1 :: l0 :: l1 :: count :: p0 :: p1 :: rest =>
    parseBody kind (parseCommon flags t0 t1 l0 l1 count p0 p1) rest
  | _ => .error .badLength

/-! ### The parameters of the other commands -/

/-- The parameters of OPEN_JOB (R6, R178). -/
structure OpenParams where
  tag : Byte
  length : Nat
  trailing : Nat
  policy : Policy
  deriving DecidableEq, Repr

/-- Checks 2 and 3 of OPEN_JOB (R6). -/
def parseOpen (params : List Byte) : Except ResultCode OpenParams :=
  match params with
  | [tag, l0, l1, t0, t1, p] =>
    match policyOf p with
    | some policy =>
      if 1 ≤ le16 l0 l1 ∧ le16 t0 t1 ≤ 4095 then .ok ⟨tag, le16 l0 l1, le16 t0 t1, policy⟩ else .error .badParam
    | none => .error .badParam
  | _ => .error .badLength

/-- Checks 2 and 3 of SET_HEAD (R100, R178). -/
def parseHead (params : List Byte) : Except ResultCode HeadConfig :=
  match params with
  | [mhz, d0, d1, groups, pre, main, hold] =>
    if 12 ≤ mhz.toNat ∧ mhz.toNat ≤ 24 ∧ 64 ≤ le16 d0 d1 ∧ le16 d0 d1 ≤ 1024 ∧
        groups.toNat ∈ [1, 2, 4, 8] ∧ le16 d0 d1 % (8 * groups.toNat) = 0 ∧
        1 ≤ main.toNat ∧ 1 ≤ hold.toNat ∧
        4 * pre.toNat + 8 * main.toNat ≤ Config.strobeCeiling then
      .ok ⟨mhz.toNat, le16 d0 d1, groups.toNat, 4 * pre.toNat, 8 * main.toNat, 10 * hold.toNat⟩
    else .error .badParam
  | _ => .error .badLength

/-- The parameters of SET_BANDS (R62, R178). -/
structure BandParams where
  base : Nat
  h : Nat
  n : Nat
  deriving DecidableEq, Repr

/-- Checks 2 and 3 of SET_BANDS (R62). -/
def parseBands (params : List Byte) : Except ResultCode BandParams :=
  match params with
  | [b0, b1, h, n] =>
    if le16 b0 b1 % 16 = 0 ∧ h.toNat ∈ [8, 16, 32, 64] ∧ 2 ≤ n.toNat ∧ n.toNat ≤ 8 then
      .ok ⟨le16 b0 b1, h.toNat, n.toNat⟩
    else .error .badParam
  | _ => .error .badLength

/-- Checks 1 and 2 of DEFINE_GLYPH (R52, R178). -/
def parseGlyph (params : List Byte) : Except ResultCode GlyphEntry :=
  match params with
  | [code, w, h, adv, b0, b1] =>
    if 1 ≤ w.toNat ∧ w.toNat ≤ 32 ∧ 1 ≤ h.toNat ∧ h.toNat ≤ 64 ∧ 1 ≤ adv.toNat ∧ adv.toNat ≤ 40 then
      .ok ⟨code, ⟨w.toNat, h.toNat, adv.toNat, le16 b0 b1⟩⟩
    else .error .badParam
  | _ => .error .badLength

/-- Checks 1 and 2 of LOAD_SEGMENT (R138, R178): the segment with its cursor at its address and its bytes left at its
total (R137). -/
def parseSegment (params : List Byte) : Except ResultCode Segment :=
  match params with
  | [ctl, a0, a1, b0, b1, r0, r1, s0, s1] =>
    if 1 ≤ le16 b0 b1 ∧ le16 b0 b1 ≤ 256 ∧ 1 ≤ le16 r0 r1 ∧ le16 r0 r1 ≤ 4096 ∧
        le16 b0 b1 ≤ le16 s0 s1 ∧ le16 s0 s1 ≤ 4096 ∧ ctl &&& 0xFC = 0x00 then
      .ok {
        direction := if ctl.getLsbD 0 then .dirOut else .dirIn
        address := le16 a0 a1
        rowBytes := le16 b0 b1
        rows := le16 r0 r1
        stride := le16 s0 s1
        notify := ctl.getLsbD 1
        cursor := le16 a0 a1
        position := 0
        bytesLeft := le16 r0 r1 * le16 b0 b1 }
    else .error .badParam
  | _ => .error .badLength

/-- The one parameter byte of RESTORE_GLYPH, WITHDRAW, ABORT_JOB and QUERY_JOB (R178). -/
def parseByte (params : List Byte) : Except ResultCode Byte :=
  match params with
  | [b] => .ok b
  | _ => .error .badLength

/-- The row of COMMIT (R8, R178). -/
def parseRow (params : List Byte) : Except ResultCode Nat :=
  match params with
  | [r0, r1] => .ok (le16 r0 r1)
  | _ => .error .badLength

/-- No parameter bytes: CLOSE_JOB and STOP_UPLOAD (R9, R148). -/
def parseNone (params : List Byte) : Except ResultCode Unit :=
  match params with
  | [] => .ok ()
  | _ => .error .badLength

/-- The tag and row of PROOF (R73, R178). -/
def parseProof (params : List Byte) : Except ResultCode (Byte × Nat) :=
  match params with
  | [tag, r0, r1] => .ok (tag, le16 r0 r1)
  | _ => .error .badLength

end Sys2Proof.Machine
end

