-- ==== Sys2Proof/Machine/Ops.lean ====
section
/-! DEFINITION. The named operations the blocks share: raster memory, the report queue, the glyph store, the job table,
the placement table, the band ring, the renderer's look, completion and abort, and the head channel's settle. -/

namespace Sys2Proof.Machine

/-! ### Raster memory (R124) -/

/-- What an unlisted address reads as: the power-on clear leaves every byte 00h (R124, R135). -/
def Memory.unlisted : Byte := 0x00

/-- The byte at an address. -/
def Memory.read : Memory → Nat → Byte
  | [], _ => Memory.unlisted
  | (b, v) :: rest, a => if b = a then v else Memory.read rest a

/-- The list after a byte is put at an address: the canonical form is kept, so a byte an unlisted address reads as is
taken out of the list. -/
def Memory.insert : Memory → Nat → Byte → Memory
  | [], a, v => if v = Memory.unlisted then [] else [(a, v)]
  | (b, w) :: rest, a, v =>
    if a < b then (if v = Memory.unlisted then (b, w) :: rest else (a, v) :: (b, w) :: rest)
    else if a = b then (if v = Memory.unlisted then rest else (a, v) :: rest)
    else (b, w) :: Memory.insert rest a v

/-- A write of one byte. An address outside memory has no byte to write (R124). -/
def Memory.write (m : Memory) (a : Nat) (v : Byte) : Memory :=
  if a < Config.memSize then Memory.insert m a v else m

/-- The bytes at so many consecutive addresses. -/
def Memory.readRange (m : Memory) (a count : Nat) : List Byte :=
  (List.range count).map fun i => Memory.read m (a + i)

/-- So many consecutive bytes written with 00h (R85), in ascending order of address, which is the model's choice within a line
(log entry 24). -/
def Memory.clearRange (m : Memory) (a count : Nat) : Memory :=
  (List.range count).foldl (fun m i => Memory.write m (a + i) 0x00) m

/-- Every byte from an address to FFFFh written with 00h (R133). -/
def Memory.clearFrom (m : Memory) (a : Nat) : Memory :=
  m.filter fun c => decide (c.1 < a)

/-- The canonical form: addresses strictly rising, every listed byte other than 00h, every address inside memory. -/
def Memory.wf (m : Memory) : Bool :=
  decide (m.Pairwise fun c d => c.1 < d.1) &&
    m.all fun c => decide (c.2 ≠ Memory.unlisted) && decide (c.1 < Config.memSize)

/-! ### Sticky flags and the report queue -/

/-- The sticky flags replaced. -/
def State.withSticky (s : State) (f : Sticky → Sticky) : State :=
  { s with port := { s.port with sticky := f s.port.sticky } }

/-- A report is posted: it joins the tail, or is dropped with REPORTS_LOST when the queue holds 16 (R153). -/
def post (r : Report) (s : State) : State :=
  if s.reports.records.length < Config.queueMax then
    { s with reports := { s.reports with records := s.reports.records ++ [r] } }
  else s.withSticky fun f => { f with reportsLost := true }

/-- Reports posted one after another, in list order (R153). -/
def postAll (rs : List Report) (s : State) : State := rs.foldl (fun s r => post r s) s

/-- PRINT_STARTED (R152). -/
def reportPrintStarted (tag : Byte) : Report := ⟨.printStarted, tag, 0xFF, 0x00, 0, 0⟩

/-- JOB_DONE: the job's length and its blank rows (R13, R152). -/
def reportJobDone (j : Job) : Report := ⟨.jobDone, j.tag, 0xFF, 0x00, halfOf j.length, halfOf j.blankRows⟩

/-- JOB_ABORTED: the cause and the done row, less a multiple of 65,536 (R152). -/
def reportJobAborted (j : Job) (cause : AbortCause) : Report :=
  ⟨.jobAborted, j.tag, 0xFF, cause.code, halfOf j.done, 0⟩

/-- UNDERRUN: the row consumed (R152). -/
def reportUnderrun (tag : Byte) (row : Nat) : Report := ⟨.underrun, tag, 0xFF, 0x00, halfOf row, 0⟩

/-- RETIRED: the placement's job and handle (R44, R152). -/
def reportRetired (p : Placement) : Report := ⟨.retired, p.job, byteOf p.handle, 0x00, 0, 0⟩

/-- SEGMENT_DONE: the direction and the total, with 65,536 as 0000h (R144, R152). -/
def reportSegmentDone (g : Segment) : Report :=
  ⟨.segmentDone, 0x00, 0xFF, g.direction.code, 0, halfOf (g.rows * g.rowBytes)⟩

/-! ### The band configuration and the band zone (R60) -/

/-- W, the line width in bytes (R60, R99). -/
def HeadConfig.lineBytes (c : HeadConfig) : Nat := c.dots / 8

/-- The length of a ring of N bands of H lines of W bytes (R60). -/
def zoneBytes (n w h : Nat) : Nat := n * w * h

/-- The address after the last byte of the band zone (R60). -/
def State.zoneEnd (s : State) : Nat :=
  s.ring.base + zoneBytes s.ring.n s.headCfg.lineBytes s.ring.h

/-- The span of the addresses from lo up to hi, hi left out, overlaps the band zone (R61). -/
def State.overlapsZone (s : State) (lo hi : Nat) : Bool :=
  decide (lo < s.zoneEnd ∧ s.ring.base < hi)

/-- The first address of band i (R60). -/
def State.bandAddr (s : State) (i : Nat) : Nat :=
  s.ring.base + i * s.headCfg.lineBytes * s.ring.h

/-- The address of the line that holds a row in band i whose first row is given (R60). -/
def State.lineAddr (s : State) (i first row : Nat) : Nat :=
  s.bandAddr i + (row - first) * s.headCfg.lineBytes

/-! ### The glyph store (R47) -/

/-- A descriptor's power-on value: ROM for 20h to 7Fh, undefined otherwise (R49). -/
def defaultGlyph (code : Byte) : GlyphDesc :=
  if 0x20 ≤ code.toNat ∧ code.toNat ≤ 0x7F then .rom else .undefined

/-- The RAM descriptor listed for a code. -/
def findGlyph : List GlyphEntry → Byte → Option RamGlyph
  | [], _ => none
  | e :: rest, code => if e.code = code then some e.glyph else findGlyph rest code

/-- A reading of a code's descriptor (R47). -/
def State.glyph (s : State) (code : Byte) : GlyphDesc :=
  match findGlyph s.glyphs code with
  | some g => .ram g
  | none => defaultGlyph code

/-- The store after a code's descriptor becomes a RAM descriptor (R53). The entries stay sorted by code. -/
def setGlyph : List GlyphEntry → GlyphEntry → List GlyphEntry
  | [], e => [e]
  | f :: rest, e =>
    if e.code.toNat < f.code.toNat then e :: f :: rest
    else if e.code = f.code then e :: rest
    else f :: setGlyph rest e

/-- The store after a code's descriptor goes back to its power-on value (R54). -/
def unsetGlyph (es : List GlyphEntry) (code : Byte) : List GlyphEntry :=
  es.filter fun e => decide (e.code ≠ code)

/-- A descriptor's width, 0 when undefined (R47). -/
def GlyphDesc.width : GlyphDesc → Nat
  | .undefined => 0
  | .rom => 12
  | .ram g => g.width

/-- A descriptor's height, 0 when undefined (R47). -/
def GlyphDesc.height : GlyphDesc → Nat
  | .undefined => 0
  | .rom => 24
  | .ram g => g.height

/-- A descriptor's advance; an undefined descriptor's counts as 0 (R47, R56). -/
def GlyphDesc.advance : GlyphDesc → Nat
  | .undefined => 0
  | .rom => 12
  | .ram g => g.advance

/-- The length of a RAM glyph's footprint (R50). -/
def RamGlyph.footprint (g : RamGlyph) : Nat := g.height * ceil8 g.width

/-! ### The job table (R1) -/

/-- The job is in state OPEN. -/
def Job.isOpen (j : Job) : Bool := decide (j.state = .opened)

/-- The job is in state ABORTING. -/
def Job.isAborting (j : Job) : Bool :=
  match j.state with
  | .aborting _ => true
  | _ => false

/-- The rows of the job with its trailing rows (R13). -/
def Job.total (j : Job) : Nat := j.length + j.trailing

/-- The job of a tag (R2). -/
def JobTable.find (t : JobTable) (tag : Byte) : Option Job :=
  match t.front, t.back with
  | some j, b => if j.tag = tag then some j else b.filter fun k => decide (k.tag = tag)
  | none, b => b.filter fun k => decide (k.tag = tag)

/-- The tag is the front job's. -/
def JobTable.isFront (t : JobTable) (tag : Byte) : Bool :=
  match t.front with
  | some j => decide (j.tag = tag)
  | none => false

/-- The OPEN job: at most one job is in state OPEN (R1). -/
def JobTable.openJob (t : JobTable) : Option Job :=
  match t.front.filter Job.isOpen with
  | some j => some j
  | none => t.back.filter Job.isOpen

/-- Both positions are FREE (R1). -/
def JobTable.isEmpty (t : JobTable) : Bool := t.front.isNone && t.back.isNone

/-- A job record changed, if it has the tag. -/
def Job.updateIf (tag : Byte) (f : Job → Job) (j : Job) : Job := if j.tag = tag then f j else j

/-- The record of the job of a tag changed. -/
def JobTable.update (t : JobTable) (tag : Byte) (f : Job → Job) : JobTable :=
  ⟨t.front.map (Job.updateIf tag f), t.back.map (Job.updateIf tag f)⟩

/-- The record of the front job changed. -/
def State.updateFront (s : State) (f : Job → Job) : State :=
  { s with jobs := { s.jobs with front := s.jobs.front.map f } }

/-! ### The placement table (R23, R24) -/

/-- The number of copies (R32). -/
def Placement.copies (p : Placement) : Nat :=
  match p.repetition with
  | none => 1
  | some r => r.count

/-- The first row of copy k (R32). -/
def Placement.copyTop (p : Placement) (k : Nat) : Nat :=
  match p.repetition with
  | none => p.top
  | some r => p.top + k * r.pitch

/-- The rows of copy k meet the rows from first up to last, last left out (R32, R41). -/
def Placement.copyMeets (p : Placement) (first last k : Nat) : Bool :=
  decide (p.copyTop k < last ∧ first < p.copyTop k + p.height)

/-- Some copy meets the rows from first up to last, last left out (R41). -/
def Placement.meets (p : Placement) (first last : Nat) : Bool :=
  (List.range p.copies).any fun k => p.copyMeets first last k

/-- The last row of the job that a placement touches (R32). -/
def lastRowOf (top height length : Nat) (r : Option Repetition) : Nat :=
  match r with
  | none => min (top + height - 1) (length - 1)
  | some r => min (top + (r.count - 1) * r.pitch + height - 1) (length - 1)

/-- The placement of a handle. -/
def findPlacement (ps : List Placement) (handle : Nat) : Option Placement :=
  ps.find? fun p => decide (p.handle = handle)

/-- The lowest-numbered FREE slot (R23). -/
def freeHandle (ps : List Placement) : Option Nat :=
  (List.range Config.slotCount).find? fun h => !(ps.any fun p => decide (p.handle = h))

/-- The placements of a job leave the table, with no report (R45). -/
def State.freePlacements (s : State) (tag : Byte) : State :=
  { s with placements := s.placements.filter fun p => decide (p.job ≠ tag) }

/-! ### The band ring (R64, R66) -/

/-- The record of band i; none is FREE. -/
def Ring.bandAt (r : Ring) (i : Nat) : Option Band := (r.bands[i]?).join

/-- Band i set to a record, or FREE. -/
def State.setBand (s : State) (i : Nat) (b : Option Band) : State :=
  { s with ring := { s.ring with bands := s.ring.bands.set i b } }

/-- A band that can be printed from or proofed: READY or PRINTING. -/
def Band.composed (b : Band) : Bool := decide (b.state = .ready ∨ b.state = .printing)

/-- The band holds the row: the row is between its first row and its last (R64). -/
def Band.holds (b : Band) (row : Nat) : Bool := decide (b.first ≤ row ∧ row < b.first + b.count)

/-- The READY or PRINTING band of a job that holds a row (R73, R103). -/
def Ring.bandHolding (r : Ring) (tag : Byte) (row : Nat) : Option Nat :=
  r.bands.findIdx? fun b =>
    match b with
    | some b => decide (b.job = tag) && b.composed && b.holds row
    | none => false

/-- The bands of a job become FREE; its PRINTING band stays when it is kept (R18, R19). -/
def Ring.freeBands (r : Ring) (tag : Byte) (keepPrinting : Bool) : Ring :=
  { r with bands := r.bands.map fun b =>
      b.filter fun b => decide (b.job ≠ tag) || (keepPrinting && decide (b.state = .printing)) }

/-- The claim index set to the one after the newest band still non-FREE; it stays where it stood when every band is
FREE (R70). The newest band is the first non-FREE one going back from the claim index. -/
def Ring.setBack (r : Ring) : Ring :=
  let back := fun d => (r.claim + r.n - 1 - d) % r.n
  match (List.range r.n).find? fun d => (r.bandAt (back d)).isSome with
  | some d => { r with claim := (back d + 1) % r.n }
  | none => r

/-- An abort or a completion frees bands of a job and sets the claim index back (R70). -/
def State.freeJobBands (s : State) (tag : Byte) (keepPrinting : Bool) : State :=
  { s with ring := (s.ring.freeBands tag keepPrinting).setBack }

/-! ### The arbiter: an operation that ends leaves its access in progress to be performed for nothing (R129) -/

/-- The operation of a client has ended: an access of it in progress advances nothing. -/
def State.orphan (s : State) (c : Client) : State :=
  { s with arbiter := { s.arbiter with
      inProgress := s.arbiter.inProgress.map fun a => if a.client = c then { a with live := false } else a } }

/-! ### The renderer's look (R78 to R81) -/

/-- The row count of a band of a job from a first row (R66, R79). -/
def bandCount (h length first : Nat) : Nat := min h (length - first)

/-- The job the renderer works on next: the front job if it is not ABORTING and has rows to render, otherwise the back
job if it has (R79). -/
def JobTable.toRender (t : JobTable) : Option Job :=
  match t.front.filter fun j => !j.isAborting && decide (j.rendered < j.length) with
  | some j => some j
  | none => t.back.filter fun j => decide (j.rendered < j.length)

/-- The band a look chooses for a job (R79). -/
def chooseBand (h : Nat) (j : Job) : Chosen := ⟨j.tag, j.rendered, bandCount h j.length j.rendered⟩

/-- The band at the claim index is FREE and under no PROOF hold (R66, R74). -/
def State.claimable (s : State) : Bool :=
  decide (s.ring.bands[s.ring.claim]? = some none) &&
    decide (s.port.proof.map ProofCopy.band ≠ some s.ring.claim)

/-- A placement is in the draw list of a band: it belongs to the job and a copy meets the rows (R41). -/
def inDrawList (c : Chosen) (p : Placement) : Bool :=
  decide (p.job = c.job) && p.meets c.first (c.first + c.count)

/-- The copies of a placement that have a drawn part in a band, in increasing order (R86). -/
def Placement.drawnCopies (p : Placement) (dots first last : Nat) : List CopyRef :=
  if p.left < dots then
    ((List.range p.copies).filter fun k => p.copyMeets first last k).map fun k => ⟨p.handle, k⟩
  else []

/-- The claim of the band at the claim index: the band becomes RENDERING, the claim index advances, the draw list is
built, its PENDING placements become ACTIVE, and clearing begins (R66, R81, R84). -/
def claimBand (c : Chosen) (s : State) : State :=
  let entries := s.placements.filter (inDrawList c)
  { s with
    ring := { s.ring with
      bands := s.ring.bands.set s.ring.claim (some ⟨.rendering, c.job, c.first, c.count⟩)
      claim := (s.ring.claim + 1) % s.ring.n }
    placements := s.placements.map fun p => if inDrawList c p then { p with active := true } else p
    renderer := .rendering {
      band := s.ring.claim
      job := c.job
      first := c.first
      count := c.count
      drawList := entries.map Placement.handle
      todo := entries.flatMap fun p => p.drawnCopies s.headCfg.dots c.first (c.first + c.count)
      cursor := .clearing (c.count * s.headCfg.lineBytes) } }

/-- The commit condition for a chosen band of a job (R80). -/
def commitAllows (j : Job) (c : Chosen) : Bool :=
  !j.isOpen || decide (c.first + c.count ≤ j.commitRow)

/-- A look (R78): it ends in IDLE, WAIT_COMMIT, WAIT_BAND or a claim. In RENDERING no event starts one. -/
def look (s : State) : State :=
  match s.renderer with
  | .rendering _ => s
  | _ =>
    match s.jobs.toRender with
    | none => { s with renderer := .idle }
    | some j =>
      let c := chooseBand s.ring.h j
      if commitAllows j c then
        if s.claimable then claimBand c s else { s with renderer := .waitBand c }
      else { s with renderer := .waitCommit c }

/-- The renderer abandons the band it is composing if that band is of the job: the draw list and cursor are dropped
(R94). The band's record and the claim index are set by `freeJobBands` in the same event. -/
def abandonWork (tag : Byte) (s : State) : State :=
  match s.renderer with
  | .rendering w =>
    if w.job = tag then ({ s with renderer := .idle } : State).orphan (.rotating .renderer) else s
  | _ => s

/-! ### The front job leaves; completion and abort (R13 to R21) -/

/-- The front job's slot becomes FREE and the back job, if present, is promoted; the head channel begins the promoted
job with a clear history line and a clear started flag (R15, R111, R112). -/
def frontLeaves (s : State) : State :=
  match s.jobs.back with
  | none => { s with jobs := ⟨none, none⟩ }
  | some j =>
    { s with
      jobs := ⟨some j, none⟩
      head := { s.head with history := List.replicate s.headCfg.lineBytes 0x00, started := false } }

/-- What of a job is still in the part is freed, with no report: its bands, the band being composed and its placements
(R14, R18, R45). The PRINTING band stays while a line of the job is in flight (R19). -/
def freeJob (tag : Byte) (keepPrinting : Bool) (s : State) : State :=
  abandonWork tag ((s.freeJobBands tag keepPrinting).freePlacements tag)

/-- The front job completes: JOB_DONE is posted, leftovers are freed, the slot becomes FREE, the back job is promoted,
and the renderer looks (R13, R14, R15, R78). -/
def completeFront (j : Job) (s : State) : State :=
  look (frontLeaves (freeJob j.tag false (post (reportJobDone j) s)))

/-- The front job completes if it is not ABORTING and its done row has reached its length plus its trailing rows (R13). -/
def completeIfDone (s : State) : State :=
  match s.jobs.front with
  | some j => if j.isAborting || decide (j.done < j.total) then s else completeFront j s
  | none => s

/-- The job of a tag enters ABORTING with its cause, unless it is ABORTING already (R18, R20). -/
def Job.abort (cause : AbortCause) (j : Job) : Job :=
  if j.isAborting then j else { j with state := .aborting cause }

/-- The front job is aborted while a line of it is in flight: it enters ABORTING and waits for the line; what is not
PRINTING is freed at once and the renderer looks (R18, R19). An ABORTING job keeps its first cause (R20). -/
def abortInFlight (cause : AbortCause) (s : State) : State :=
  match s.jobs.front with
  | some j =>
    if j.isAborting then s else look (freeJob j.tag true (s.updateFront (Job.abort cause)))
  | none => s

/-- The end of the abort of the front job: its PRINTING band and its slot become FREE, JOB_ABORTED is posted with the
done row as it stands, the back job is promoted, and the renderer looks (R19, R78). -/
def endAbort (s : State) : State :=
  match s.jobs.front with
  | some j =>
    match j.state with
    | .aborting cause =>
      look (frontLeaves (post (reportJobAborted j cause) (s.freeJobBands j.tag false)))
    | _ => s
  | none => s

/-- The front job is aborted with no line in flight: everything of it is freed and its slot becomes FREE at once (R19). -/
def abortFrontAtOnce (j : Job) (cause : AbortCause) (s : State) : State :=
  look (frontLeaves (post (reportJobAborted j cause) (freeJob j.tag false s)))

/-- The back job is aborted: its slot becomes FREE at once and the front job stays as it is (R21). -/
def abortBack (j : Job) (s : State) : State :=
  let t := post (reportJobAborted j .host) (freeJob j.tag false s)
  look { t with jobs := { t.jobs with back := none } }

/-! ### The head channel settles (R103) -/

/-- A line is in flight (R102). -/
def Head.lineInFlight (h : Head) : Bool :=
  match h.mode with
  | .inFlight _ _ => true
  | _ => false

/-- The front job's next row is ready: a trailing row, or a row held in a READY or PRINTING band (R103). -/
def State.nextRowReady (s : State) (j : Job) : Bool :=
  decide (j.length ≤ j.done) || (s.ring.bandHolding j.tag j.done).isSome

/-- The state a settle takes from the job table and the band ring (R103). -/
def State.settledMode (s : State) : HeadMode :=
  match s.jobs.front with
  | none => .idle
  | some j => if s.nextRowReady j then .armed else .waitLine

/-- The head channel settles, unless a line is in flight (R103). -/
def settle (s : State) : State :=
  if s.head.lineInFlight then s else { s with head := { s.head with mode := s.settledMode } }

/-- The history line cleared to W bytes of zero (R112). -/
def State.clearHistory (s : State) : State :=
  { s with head := { s.head with history := List.replicate s.headCfg.lineBytes 0x00 } }

end Sys2Proof.Machine
end

