-- ==== Sys2Proof/Machine/Compose.lean ====
section
/-! DEFINITION. Composition of a band: the source dots of each kind, the combination of dots into band bytes, the
renderer's next access and its next reading, and the rest of a band composed at one go (R85 to R91). -/

namespace Sys2Proof.Machine

/-! ### Source dots (R28 to R31, R48, R88 to R90) -/

/-- A dot of a ROM glyph: 20h is blank, 7Fh is solid, and the dots of 21h to 7Eh lie within columns 1 to 10 and rows 2
to 21 (R48); which of them are 1 is the free value Config.romPattern (log entry 11). -/
def romDot (code : Byte) (row col : Nat) : Bool :=
  if code = 0x20 then false
  else if code = 0x7F then decide (row < 24 ∧ col < 12)
  else decide (2 ≤ row ∧ row ≤ 21 ∧ 1 ≤ col ∧ col ≤ 10) && Config.romPattern code row col

/-- The column after the last drawn column: the rectangle's right edge, cut at the head's dot count (R86). -/
def Placement.limit (p : Placement) (dots : Nat) : Nat := min (p.left + p.width) dots

/-- The columns of a laid glyph that are drawn (R56, R90). -/
def Laid.drawnWidth (l : Laid) (limit : Nat) : Nat := min l.desc.width (limit - l.x)

/-- The bitmap bytes that one row of a laid glyph needs: none for a ROM or an undefined glyph (R50, R90). -/
def Laid.sources (l : Laid) (limit row : Nat) : List Nat :=
  match l.desc with
  | .ram g =>
    if row < g.height then
      (List.range (ceil8 (l.drawnWidth limit))).map fun i => g.base + row * ceil8 g.width + i
    else []
  | _ => []

/-- The source bytes that one row of a copy needs, in the order they are read (R89, R90). The row is counted from the
copy's top. -/
def Placement.sources (p : Placement) (laid : List Laid) (limit row : Nat) : List Nat :=
  match p.kind with
  | .glyphs _ _ => laid.flatMap fun l => l.sources limit row
  | .image source stride =>
    (List.range (ceil8 (limit - p.left))).map fun i => source + row * stride + i
  | .bar => []

/-- Dot c of a row held in bytes (R125). -/
def dotIn (bytes : List Byte) (c : Nat) : Bool := dotOf (bytes.getD (c / 8) 0x00) (c % 8)

/-- The dot of one laid glyph at a column, its bitmap bytes of the row given (R90). -/
def Laid.dot (l : Laid) (bytes : List Byte) (row c : Nat) : Bool :=
  decide (l.x ≤ c ∧ c < l.x + l.desc.width ∧ row < l.desc.height) &&
    match l.desc with
    | .undefined => false
    | .rom => romDot l.code row (c - l.x)
    | .ram _ => dotIn bytes (c - l.x)

/-- The dot of a run at a column: 1 where any glyph has a 1 (R51, R90). The bytes are those of `Placement.sources`. -/
def runDot (limit row : Nat) : List Laid → List Byte → Nat → Bool
  | [], _, _ => false
  | l :: rest, src, c =>
    let n := (l.sources limit row).length
    l.dot (src.take n) row c || runDot limit row rest (src.drop n) c

/-- The source dot of a copy at a column, inverted first if the inverse field is set (R28, R87). -/
def Placement.sourceDot (p : Placement) (laid : List Laid) (limit row : Nat) (src : List Byte) (c : Nat) : Bool :=
  xor p.inverse <|
    match p.kind with
    | .glyphs _ _ => runDot limit row laid src c
    | .image _ _ => dotIn src (c - p.left)
    | .bar => true

/-- The new band dot from the band dot and the source dot (R28). -/
def combineDot (op : CombineOp) (band source : Bool) : Bool :=
  match op with
  | .setOr => band || source
  | .xor => xor band source
  | .clear => band && !source
  | .replace => source

/-- A band byte with the dots of the drawn part combined into it and its other dots unchanged (R87). -/
def Placement.combineByte (p : Placement) (laid : List Laid) (limit row : Nat) (src : List Byte)
    (index : Nat) (old : Byte) : Byte :=
  byteOfDots fun i =>
    let c := 8 * index + i
    if p.left ≤ c ∧ c < limit then combineDot p.op (dotOf old i) (p.sourceDot laid limit row src c)
    else dotOf old i

/-- The band bytes that a row's drawn columns touch: the first one and how many (R87). -/
def Placement.firstByte (p : Placement) : Nat := p.left / 8
@[inherit_doc Placement.firstByte]
def Placement.byteCount (p : Placement) (limit : Nat) : Nat := (limit - 1) / 8 + 1 - p.left / 8

/-! ### The readings of a run (R56, R90) -/

/-- Where the next glyph of a run is laid: right of the last one by the advance read plus the spacing (R90). -/
def nextX (left spacing : Nat) (laid : List Laid) : Nat :=
  match laid.getLast? with
  | none => left
  | some l => l.x + l.desc.advance + spacing

/-- One reading more (R56). -/
def State.layNext (s : State) (left spacing : Nat) (laid : List Laid) (code : Byte) : List Laid :=
  laid ++ [⟨code, nextX left spacing laid, s.glyph code⟩]

/-- The readings of a run that are still to take (R90). -/
def State.layRest (s : State) (p : Placement) (laid : List Laid) : List Laid :=
  match p.kind with
  | .glyphs spacing codes => (codes.drop laid.length).foldl (s.layNext p.left spacing) laid
  | _ => laid

/-! ### The renderer's progress, access by access (R76, R85, R90) -/

/-- The first row of the drawn part of a copy (R86). -/
def Work.firstRow (w : Work) (p : Placement) (k : Nat) : Nat := max (p.copyTop k) w.first

/-- The row after the last row of the drawn part of a copy (R86). -/
def Work.endRow (w : Work) (p : Placement) (k : Nat) : Nat := min (p.copyTop k + p.height) (w.first + w.count)

/-- The cursor at the start of the copies still to draw: the readings of a run come before any access (R90). -/
def Work.enter (w : Work) (ps : List Placement) : List CopyRef → Work
  | [] => { w with todo := [], cursor := .finished }
  | c :: rest =>
    match findPlacement ps c.handle with
    | none => Work.enter w ps rest
    | some p =>
      { w with
        todo := c :: rest
        cursor :=
          match p.kind with
          | .glyphs _ _ => .reading []
          | _ => .drawing [] (w.firstRow p c.copy) [] 0 none }

/-- The copy at the cursor and its placement. -/
def Work.current (w : Work) (ps : List Placement) : Option (CopyRef × Placement) :=
  match w.todo with
  | [] => none
  | c :: _ => (findPlacement ps c.handle).map fun p => (c, p)

/-- The bytes of the lines of a band that hold rows (R85). -/
def Work.lineBytes (w : Work) (s : State) : Nat := w.count * s.headCfg.lineBytes

/-- The renderer's next access, if its cursor is at one (R85, R87, R90). The lines are cleared in line order (R85); that the W
bytes of a line are cleared in ascending order of address is the model's choice (log entry 24). -/
def rendererRequest (s : State) : Option Request :=
  match s.renderer with
  | .rendering w =>
    match w.cursor with
    | .clearing 0 => none
    | .clearing (n + 1) => some ⟨s.bandAddr w.band + (w.lineBytes s - (n + 1)), some 0x00⟩
    | .drawing laid row src col held =>
      match w.current s.placements with
      | none => none
      | some (c, p) =>
        let limit := p.limit s.headCfg.dots
        match (p.sources laid limit (row - p.copyTop c.copy))[src.length]? with
        | some a => some ⟨a, none⟩
        | none =>
          let a := s.lineAddr w.band w.first row + p.firstByte + col
          match held with
          | none => some ⟨a, none⟩
          | some old =>
            some ⟨a, some (p.combineByte laid limit (row - p.copyTop c.copy) src (p.firstByte + col) old)⟩
    | _ => none
  | _ => none

/-- The work after the renderer's next access has been performed; a read returned the byte. The rows of the drawn part go from
the top row down: R90 says so for GLYPHS, and for BAR and IMAGE it is the model's choice (log entry 24), as is the order of
source bytes and band bytes inside a row of an IMAGE (log entry 12). -/
def Work.advance (w : Work) (s : State) (v : Byte) : Work :=
  match w.cursor with
  | .clearing n => if n ≤ 1 then w.enter s.placements w.todo else { w with cursor := .clearing (n - 1) }
  | .drawing laid row src col held =>
    match w.current s.placements with
    | none => w
    | some (c, p) =>
      let limit := p.limit s.headCfg.dots
      if src.length < (p.sources laid limit (row - p.copyTop c.copy)).length then
        { w with cursor := .drawing laid row (src ++ [v]) col held }
      else
        match held with
        | none => { w with cursor := .drawing laid row src col (some v) }
        | some _ =>
          if col + 1 < p.byteCount limit then { w with cursor := .drawing laid row src (col + 1) none }
          else if row + 1 < w.endRow p c.copy then { w with cursor := .drawing laid (row + 1) [] 0 none }
          else w.enter s.placements w.todo.tail
  | _ => w

/-- The renderer's cursor is at a reading of a descriptor. -/
def State.atReading (s : State) : Bool :=
  match s.renderer with
  | .rendering w =>
    match w.cursor with
    | .reading _ => true
    | _ => false
  | _ => false

/-- The work after the reading at the cursor has been taken: the glyph of the run whose reading is next, or the first row
of the drawn part when all have been taken (R76, R90). -/
def Work.read (w : Work) (s : State) : Work :=
  match w.cursor, w.current s.placements with
  | .reading laid, some (c, p) =>
    match p.kind with
    | .glyphs spacing codes =>
      match codes[laid.length]? with
      | some code =>
        let laid' := s.layNext p.left spacing laid code
        if laid'.length < codes.length then { w with cursor := .reading laid' }
        else { w with cursor := .drawing laid' (w.firstRow p c.copy) [] 0 none }
      | none => { w with cursor := .drawing laid (w.firstRow p c.copy) [] 0 none }
    | _ => { w with cursor := .drawing laid (w.firstRow p c.copy) [] 0 none }
  | .reading _, none => w.enter s.placements w.todo
  | _, _ => w

/-- The renderer takes the reading at its cursor (R90). -/
def takeReading (s : State) : State :=
  match s.renderer with
  | .rendering w => { s with renderer := .rendering (w.read s) }
  | _ => s

/-- The last entry of the draw list has been drawn (R96). -/
def State.composed (s : State) : Bool :=
  match s.renderer with
  | .rendering w => decide (w.cursor = .finished)
  | _ => false

/-! ### The rest of a band composed at one go (R86, R87, R90) -/

/-- The rest of one row of a copy: the source bytes not yet read, then each band byte from `col` read, combined and
written back; the band byte `held` has been read already. -/
def finishRow (p : Placement) (laid : List Laid) (limit line row : Nat)
    (src : List Byte) (col : Nat) (held : Option Byte) (m : Memory) : Memory :=
  let src' := src ++ ((p.sources laid limit row).drop src.length).map (Memory.read m)
  (List.range' col (p.byteCount limit - col)).foldl (fun m j =>
    let a := line + p.firstByte + j
    let old := if j = col then held.getD (Memory.read m a) else Memory.read m a
    Memory.write m a (p.combineByte laid limit row src' (p.firstByte + j) old)) m

/-- The rows of a copy from a row to the end of its drawn part, each from its beginning. -/
def finishRows (s : State) (w : Work) (p : Placement) (k : Nat) (laid : List Laid) (row : Nat) (m : Memory) : Memory :=
  (List.range' row (w.endRow p k - row)).foldl (fun m r =>
    finishRow p laid (p.limit s.headCfg.dots) (s.lineAddr w.band w.first r) (r - p.copyTop k) [] 0 none m) m

/-- The copies of a list drawn one after another, each with its own readings (R86, R90). -/
def finishCopies (s : State) (w : Work) (todo : List CopyRef) (m : Memory) : Memory :=
  todo.foldl (fun m c =>
    match findPlacement s.placements c.handle with
    | none => m
    | some p => finishRows s w p c.copy (s.layRest p []) (w.firstRow p c.copy) m) m

/-- Raster memory after the rest of the band at the cursor has been composed, with nothing else between (log entry 8). -/
def composeRest (s : State) (w : Work) : Memory :=
  match w.cursor with
  | .clearing n => finishCopies s w w.todo (Memory.clearRange s.mem (s.bandAddr w.band + (w.lineBytes s - n)) n)
  | .finished => s.mem
  | .reading laid =>
    match w.current s.placements with
    | none => finishCopies s w w.todo s.mem
    | some (c, p) =>
      finishCopies s w w.todo.tail
        (finishRows s w p c.copy (s.layRest p laid) (w.firstRow p c.copy) s.mem)
  | .drawing laid row src col held =>
    match w.current s.placements with
    | none => finishCopies s w w.todo s.mem
    | some (c, p) =>
      finishCopies s w w.todo.tail
        (finishRows s w p c.copy laid (row + 1)
          (finishRow p laid (p.limit s.headCfg.dots) (s.lineAddr w.band w.first row) (row - p.copyTop c.copy)
            src col held s.mem))

/-! ### Addresses inside memory (R124) -/

/-- A descriptor's footprint lies inside memory (R50, R52). -/
def GlyphDesc.inside : GlyphDesc → Bool
  | .ram g => decide (g.base + g.footprint ≤ Config.memSize)
  | _ => true

/-- What a placement reads lies inside memory (R30, R50). -/
def State.placementInside (s : State) (p : Placement) : Bool :=
  match p.kind with
  | .glyphs _ codes => codes.all fun c => (s.glyph c).inside
  | .image source stride => decide (source + (p.height - 1) * stride + ceil8 p.width ≤ Config.memSize)
  | .bar => true

/-- The readings the cursor holds lie inside memory. -/
def Cursor.inside : Cursor → Bool
  | .reading laid => laid.all fun l => l.desc.inside
  | .drawing laid _ _ _ _ => laid.all fun l => l.desc.inside
  | _ => true

/-- Every address the rest of the composition can form lies inside memory (R124). -/
def State.composeInside (s : State) (w : Work) : Bool :=
  decide (s.bandAddr w.band + w.lineBytes s ≤ Config.memSize) && w.cursor.inside &&
    w.todo.all fun c =>
      match findPlacement s.placements c.handle with
      | none => true
      | some p => s.placementInside p

end Sys2Proof.Machine
end

