-- ==== Sys2Proof/Machine/Flags.lean ====
section
/-! DEFINITION. The sticky flags, the interrupt sources, the upload conditions, and what the register window and the
output pins show of the state (R161, R162, R172 to R174, R177, R181). -/

namespace Sys2Proof.Machine

/-- A bit with the weight of its place. -/
def bitAt (b : Bool) (place : Nat) : Nat := if b then 2 ^ place else 0

/-! ### Sticky flags (R172, R177) -/

/-- Offset F as read. -/
def Sticky.byte (f : Sticky) : Byte :=
  byteOf (bitAt f.cmdRefused 0 + bitAt f.paramSpill 1 + bitAt f.dataSpill 2 + bitAt f.dataShort 3 + bitAt f.reportsLost 4)

/-- Each flag written with 1 clears; each written with 0 stays (R172). -/
def Sticky.clearedBy (f : Sticky) (v : Byte) : Sticky where
  cmdRefused := f.cmdRefused && !v.getLsbD 0
  paramSpill := f.paramSpill && !v.getLsbD 1
  dataSpill := f.dataSpill && !v.getLsbD 2
  dataShort := f.dataShort && !v.getLsbD 3
  reportsLost := f.reportsLost && !v.getLsbD 4

/-- At least one flag is set (R162). -/
def Sticky.any (f : Sticky) : Bool :=
  f.cmdRefused || f.paramSpill || f.dataSpill || f.dataShort || f.reportsLost

/-! ### Upload conditions (R140, R142, R145, R146) -/

/-- The FIFO offers room to a DATA write: the current segment is IN, and the FIFO holds fewer than 8 bytes and fewer than
the segment still needs (R140). -/
def Upload.room (u : Upload) : Bool :=
  match u.cur with
  | some g =>
    decide (g.direction = .dirIn ∧ u.fifo.length < Config.fifoDepth ∧ u.fifo.length < g.bytesLeft)
  | none => false

/-- The channel asks for a prefetch: the current segment is OUT, and the FIFO holds fewer than 8 bytes and fewer than the
host has still to read (R142). -/
def Upload.wantsPrefetch (u : Upload) : Bool :=
  match u.cur with
  | some g =>
    decide (g.direction = .dirOut ∧ u.fifo.length < Config.fifoDepth ∧ u.fifo.length < g.bytesLeft)
  | none => false

/-- The condition of DREQ and STATUS.DATA_READY (R145). -/
def Upload.dataReady (u : Upload) : Bool :=
  match u.cur with
  | some g =>
    match g.direction with
    | .dirIn => u.room
    | .dirOut => !u.fifo.isEmpty
  | none => false

/-- The UPLOAD_NEXT condition (R146). -/
def Upload.nextWanted (u : Upload) : Bool := u.cur.isSome && u.nxt.isNone

/-! ### Interrupts (R156, R159, R177) -/

/-- The four sources, pending or not (R156). -/
def State.sources (s : State) : Sources :=
  ⟨!s.reports.records.isEmpty, s.upload.nextWanted, s.irq.input, s.irq.done⟩

/-- Offsets 7 and 8 as read (R177). -/
def Sources.byte (x : Sources) : Byte :=
  byteOf (bitAt x.report 0 + bitAt x.uploadNext 1 + bitAt x.input 2 + bitAt x.done 3)

/-- A byte written to offset 8 (R159, R177). -/
def Sources.ofByte (v : Byte) : Sources :=
  ⟨v.getLsbD 0, v.getLsbD 1, v.getLsbD 2, v.getLsbD 3⟩

/-- The interrupt line is asserted: a source is both pending and enabled, and RESET is not asserted (R132, R159). -/
def State.irqLine (s : State) : Bool :=
  decide (s.phase ≠ .held) &&
    (s.sources.report && s.irq.enable.report || s.sources.uploadNext && s.irq.enable.uploadNext ||
      s.sources.input && s.irq.enable.input || s.sources.done && s.irq.enable.done)

/-! ### Register views (R161, R162, R169, R173, R174, R177) -/

/-- STATUS.READY (R162). -/
def State.isReady (s : State) : Bool := decide (s.phase = .ready)

/-- Offset 0 (R162, R177). -/
def State.statusByte (s : State) : Byte :=
  byteOf (bitAt s.isReady 0 + bitAt s.port.busy 1 + bitAt (decide (s.port.params.length < Config.paramMax)) 2 +
    bitAt s.upload.dataReady 3 + bitAt (!s.reports.records.isEmpty) 4 + bitAt s.hot 5 + bitAt s.paper 6 +
    bitAt s.port.sticky.any 7)

/-- The byte a read of ANSWER returns: the byte at the position, or 00h past the last (R169). -/
def Port.answerByte (p : Port) : Byte := p.answer.getD p.answerPos 0x00

/-- The byte a read of DATA returns: the FIFO head of an OUT segment, or 00h (R143). -/
def Upload.dataByte (u : Upload) : Byte :=
  match u.cur with
  | some g => if g.direction = .dirOut then u.fifo.headD 0x00 else 0x00
  | none => 0x00

/-- The byte a read of REPORT returns: the byte of the head record at the read position, or 00h (R154). -/
def ReportQueue.byte (q : ReportQueue) : Byte :=
  match q.records with
  | r :: _ => r.bytes.getD q.readPos 0x00
  | [] => 0x00

/-- Offset 9 (R177). -/
def HeadMode.code : HeadMode → Byte
  | .idle => 0x00
  | .waitLine => 0x01
  | .armed => 0x02
  | .inFlight .fetch _ => 0x03
  | .inFlight (.shift .pre _) _ => 0x04
  | .inFlight (.strobe .pre _) _ => 0x05
  | .inFlight (.shift .main _) _ => 0x06
  | .inFlight (.strobe .main _) _ => 0x07
  | .inFlight (.hold _ _) _ => 0x08

/-- The state code of a position: FREE 0 (R177). -/
def positionCode (j : Option Job) : Nat :=
  match j with
  | none => 0
  | some j => j.state.code.toNat

/-- Offset A: the front position in bits 1 to 0, the back position in bits 3 to 2 (R177). -/
def JobTable.byte (t : JobTable) : Byte := byteOf (positionCode t.front + 4 * positionCode t.back)

/-- The direction bit of a slot: 0 while it is empty (R177). -/
def slotIsOut (g : Option Segment) : Bool :=
  match g with
  | some g => decide (g.direction = .dirOut)
  | none => false

/-- Offset B (R177). -/
def Upload.byte (u : Upload) : Byte :=
  byteOf (bitAt u.cur.isSome 0 + bitAt (slotIsOut u.cur) 1 + bitAt u.nxt.isSome 2 + bitAt (slotIsOut u.nxt) 3)

/-- The front job's done row, 0 when the table is empty (R4, R173). -/
def JobTable.frontDone (t : JobTable) : Nat :=
  match t.front with
  | some j => j.done
  | none => 0

/-- The byte a read of an offset returns as the state stands (R161). While RESET is asserted every read returns 00h. The
reads of offsets 4, 5, 6 and C also change state: they are rows of the table. -/
def State.readRegister (s : State) (offset : BitVec 4) : Byte :=
  if s.phase = .held then 0x00
  else match offset.toNat with
  | 0x0 => s.statusByte
  | 0x1 => s.port.result.code
  | 0x2 => s.port.cmd
  | 0x3 => 0x00
  | 0x4 => s.port.answerByte
  | 0x5 => s.upload.dataByte
  | 0x6 => s.reports.byte
  | 0x7 => s.sources.byte
  | 0x8 => s.irq.enable.byte
  | 0x9 => s.head.mode.code
  | 0xA => s.jobs.byte
  | 0xB => s.upload.byte
  | 0xC => byteOf s.jobs.frontDone
  | 0xD => s.port.capture
  | 0xE => byteOf s.port.params.length
  | _ => s.port.sticky.byte

/-! ### Output pins (R104, R109, R110, R145, R181) -/

/-- FEEDREQ is asserted only while the head channel is ARMED and PAPER is present (R104). -/
def State.feedreq (s : State) : Bool :=
  decide (s.phase ≠ .held) && decide (s.head.mode = .armed) && s.paper

/-- DREQ (R132, R145). -/
def State.dreq (s : State) : Bool := decide (s.phase ≠ .held) && s.upload.dataReady

/-- Strobe line k, 1 to 8, is driven: a pulse of group k is in progress (R110, R132). -/
def State.strobe (s : State) (k : Nat) : Bool :=
  match s.head.mode with
  | .inFlight (.strobe _ _) line => decide (s.phase ≠ .held) && decide (line.group = k)
  | _ => false

/-- The line a pass shifts and strobes: the new-dots line in the pre-heat pass, the fetched line in the main pass (R109). -/
def Line.passBytes (l : Line) (p : Pass) : List Byte :=
  match p with
  | .pre => l.newDots
  | .main => l.bytes

/-- INT is an open-drain output: driven low, or released (R181). -/
inductive OpenDrain where
  | low | released
  deriving DecidableEq, Repr

/-- The INT pin: low while the interrupt line is asserted, released otherwise (R159, R181). -/
def State.intPin (s : State) : OpenDrain := if s.irqLine then .low else .released

/-- The serial dot output during a shift: dot column c on the shift-clock period c, a period being four CLKIN periods
(R109). It is inactive, at the level of a 0 dot, after either reset (R122). That it is inactive during the latch pulse, and
outside a shift at every other time, and that a 0 dot's level is the inactive one, are the model's choice (log entry 17). -/
def State.sdata (s : State) : Bool :=
  match s.head.mode with
  | .inFlight (.shift p left) line =>
    let c := (4 * (s.headCfg.dots + 1) - left) / 4
    decide (s.phase ≠ .held) && decide (c < s.headCfg.dots) &&
      dotOf ((line.passBytes p).getD (c / 8) 0x00) (c % 8)
  | _ => false

/-- The latch pulse: the last shift-clock period of a shift (R109). Inactive outside a shift (R109, R122). -/
def State.latchPulse (s : State) : Bool :=
  match s.head.mode with
  | .inFlight (.shift _ left) _ => decide (s.phase ≠ .held) && decide (left ≤ 4)
  | _ => false

/-- SCLK is active in CLKIN period i, 0 to 3, of a shift-clock period: one run of 1 to 3 of the four, going around, so that the
clock makes one cycle in every four CLKIN periods (R109). Where the run stands and how long it is are free values (log entry
17). -/
def sclkActive (i : Nat) : Bool := decide ((i + 4 - Config.sclkLead % 4) % 4 < 1 + Config.sclkStay % 3)

/-- The level of the shift clock output. During a shift it runs at a quarter of the time base (R109), and in the latch pulse its
level is a free value. It is inactive after either reset (R122); that it is inactive outside a shift at every other time is the
model's choice, and which level is the inactive one is the free value Config.sclkIdle (log entry 17). -/
def State.sclk (s : State) : Bool :=
  match s.head.mode with
  | .inFlight (.shift _ left) _ =>
    let i := (4 * (s.headCfg.dots + 1) - left) % 4
    if s.phase = .held then Config.sclkIdle
    else if s.latchPulse then Config.sclkInLatch i
    else xor Config.sclkIdle (sclkActive i)
  | _ => Config.sclkIdle

end Sys2Proof.Machine
end

