-- ==== Sys2Proof/Machine/HeadChannel.lean ====
section
/-! DEFINITION. The head channel's line: line steps, the two passes, underrun, the latch and the end of a line
(R105 to R120). The meanings of the head's rows stand in HeadEvents. -/

namespace Sys2Proof.Machine

/-- The head channel's state replaced. -/
def State.withMode (s : State) (m : HeadMode) : State := { s with head := { s.head with mode := m } }

/-- The front job's next row is consumed (R11). -/
def State.advanceDone (s : State) : State := s.updateFront fun j => { j with done := j.done + 1 }

/-- The row is consumed blank: the done row and the blank-rows count advance (R11, R113). -/
def State.advanceBlank (s : State) : State :=
  s.updateFront fun j => { j with done := j.done + 1, blankRows := j.blankRows + 1 }

/-! ### A step consumed with no line in flight (R105, R106, R107, R113, R114) -/

/-- A trailing row is consumed (R106). -/
def trailingStep (s : State) : State := settle (completeIfDone s.clearHistory.advanceDone)

/-- A line is started: its band becomes PRINTING and the head channel enters FETCH (R69, R107). -/
def startLine (j : Job) (i : Nat) (s : State) : State :=
  match s.ring.bandAt i with
  | some b =>
    (s.setBand i (some { b with state := .printing })).withMode <| .inFlight .fetch {
      row := j.done
      job := j.tag
      band := i
      addr := s.lineAddr i b.first j.done
      bytes := []
      newDots := []
      group := 0
      ending := false }
  | none => s

/-- An underrun at the front job's next row: consumed blank under BLANK (R113), an abort under ABORT (R114). -/
def underrunStep (j : Job) (s : State) : State :=
  match j.policy with
  | .blank => settle (completeIfDone (post (reportUnderrun j.tag j.done) s.clearHistory.advanceBlank))
  | .abort => settle (abortFrontAtOnce j .underrun s)

/-- A step taken in ARMED: a trailing row is consumed or the line of the row is started (R105, R106, R107). -/
def armedStep (j : Job) (s : State) : State :=
  if j.length ≤ j.done then trailingStep s
  else match s.ring.bandHolding j.tag j.done with
  | some i => startLine j i s
  | none => underrunStep j s

/-- A step taken with no line in flight against the job that is then front (R117): ignored with the table empty, taken
as in ARMED if the next row is ready, an underrun otherwise. -/
def servedStep (s : State) : State :=
  match s.jobs.front with
  | none => settle s
  | some j => if s.nextRowReady j then armedStep j s else underrunStep j s

/-- The line in flight is dropped and the pending-step latch is served; with the latch clear the head channel settles
(R110, R117). -/
def serveLatch (s : State) : State :=
  if s.head.latch then servedStep { s with head := { s.head with mode := .idle, latch := false } }
  else settle (s.withMode .idle)

/-! ### The end of a line (R19, R110, R116, R120) -/

/-- The band whose last row a line has printed becomes FREE, and the renderer looks (R69, R78). -/
def releaseBand (line : Line) (s : State) : State :=
  match s.ring.bandAt line.band with
  | some b => if line.row + 1 = b.first + b.count then look (s.setBand line.band none) else s
  | none => s

/-- The end of the abort of an ABORTING front job, or the completion of one whose last row has gone (R110 step 4). -/
def endAbortOrComplete (s : State) : State :=
  match s.jobs.front with
  | some j => if j.isAborting then endAbort s else completeIfDone s
  | none => s

/-- The end of a printed line, one of all zeros included (R110). -/
def endLine (line : Line) (s : State) : State :=
  serveLatch (endAbortOrComplete (releaseBand line
    ({ s with head := { s.head with history := line.bytes } } : State).advanceDone))

/-- A line that ends early or is abandoned: history and done row unchanged, the abort ends here, and an access of the
fetch in progress is dropped (R116, R120, R129). -/
def abandonLine (s : State) : State := serveLatch ((endAbort s).orphan .fetch)

/-! ### Shifts and strobe pulses (R109, R110, R111, R118) -/

/-- A shift lasts 4 × (D + 1) CLKIN periods (R109). -/
def HeadConfig.shiftPeriods (c : HeadConfig) : Nat := 4 * (c.dots + 1)

/-- A pulse lasts the pass's time, counted in CLKIN periods as the time base gives them (R99, R110). -/
def HeadConfig.pulsePeriods (c : HeadConfig) (p : Pass) : Nat :=
  match p with
  | .pre => c.preheat * c.timeBase
  | .main => c.main * c.timeBase

/-- The hot-hold limit in CLKIN periods (R99, R118). -/
def HeadConfig.holdPeriods (c : HeadConfig) : Nat := c.hold * 1000 * c.timeBase

/-- The bytes of a group, 1 to g, in a line: dot columns (k − 1) × D / g to k × D / g − 1 (R99). -/
def groupBytes (c : HeadConfig) (line : List Byte) (k : Nat) : List Byte :=
  (line.drop ((k - 1) * (c.lineBytes / c.groups))).take (c.lineBytes / c.groups)

/-- A line, or a group of one, holds a 1 dot. -/
def hasDots (bytes : List Byte) : Bool := bytes.any fun b => decide (b ≠ 0x00)

/-- The next group from k on that has dots in the latched line (R110). -/
def nextGroup (c : HeadConfig) (line : List Byte) (k : Nat) : Option Nat :=
  (List.range' k (c.groups + 1 - k)).find? fun g => hasDots (groupBytes c line g)

/-- A shift begins (R109). -/
def enterShift (p : Pass) (line : Line) (s : State) : State :=
  s.withMode (.inFlight (.shift p s.headCfg.shiftPeriods) line)

/-- PRINT_STARTED at the first pulse of the front job (R111). That it is posted also where that job is ABORTING already, aborted
before any pulse, is the model's reading (log entry 27). -/
def markStarted (tag : Byte) (s : State) : State :=
  if s.head.started then s
  else post (reportPrintStarted tag) { s with head := { s.head with started := true } }

/-- A strobe pulse begins for the group reached (R110, R111). -/
def startPulse (p : Pass) (line : Line) (s : State) : State :=
  (markStarted line.job s).withMode (.inFlight (.strobe p (s.headCfg.pulsePeriods p)) line)

/-- A pass takes up its next group with dots from k on: HOT is checked, and the pulse begins or the pass is held; with no
group left the pre-heat pass goes on to the main shift and the main pass ends the line (R110, R118). -/
def takeUpGroup (p : Pass) (k : Nat) (line : Line) (s : State) : State :=
  match nextGroup s.headCfg (line.passBytes p) k with
  | some g =>
    if s.hot then s.withMode (.inFlight (.hold p s.headCfg.holdPeriods) { line with group := g })
    else startPulse p { line with group := g } s
  | none =>
    match p with
    | .pre => enterShift .main line s
    | .main => endLine line s

/-- The new-dots line: 1 where the line has a 1 and the history line a 0 (R108). -/
def newDotsOf (bytes history : List Byte) : List Byte :=
  List.zipWith (fun b h => b &&& ~~~h) bytes history

/-- The fetch has ended with the line's bytes: a line of all zeros ends at once, otherwise the pre-heat or the main shift
begins (R108). -/
def lineFetched (line : Line) (s : State) : State :=
  if hasDots line.bytes then
    let dots := newDotsOf line.bytes s.head.history
    if s.headCfg.preheat = 0 ∨ hasDots dots = false then enterShift .main { line with newDots := dots } s
    else enterShift .pre { line with newDots := dots } s
  else endLine line s

/-- A shift ends with its latch pulse, and the pass takes up its first group (R109, R110). -/
def endShift (s : State) : State :=
  match s.head.mode with
  | .inFlight (.shift p _) line => takeUpGroup p 1 line s
  | _ => s

/-- A strobe pulse ends: an ending line ends here, any other takes up the next group (R110, R116). -/
def endPulse (s : State) : State :=
  match s.head.mode with
  | .inFlight (.strobe p _) line =>
    if line.ending then abandonLine s else takeUpGroup p (line.group + 1) line s
  | _ => s

/-- The hot-hold timer expires: the line is abandoned and the front job aborted with HEAD_HOT unless it is ABORTING
already (R120). -/
def expireHold (s : State) : State :=
  match s.head.mode with
  | .inFlight (.hold _ _) _ => abandonLine (abortInFlight .headHot s)
  | _ => s

/-- HOT is released in a hot hold: the timer stops and the held group's pulse begins at once (R119). -/
def releaseHold (s : State) : State :=
  match s.head.mode with
  | .inFlight (.hold p _) line => startPulse p line s
  | _ => s

/-- A second step while a line is in flight: the latch clears, the line is ending, the front job is aborted with
STEP_LOST unless it is ABORTING already, and the line ends at once unless a pulse is in progress (R116). -/
def loseStep (phase : LinePhase) (line : Line) (s : State) : State :=
  let t := abortInFlight .stepLost
    { s with head := { s.head with latch := false, mode := .inFlight phase { line with ending := true } } }
  match phase with
  | .strobe _ _ => t
  | _ => abandonLine t

/-- A line step (R105): ignored in IDLE and until READY, an underrun in WAIT_LINE, taken in ARMED, latched or lost while a
line is in flight (R115, R116). -/
def lineStepOp (s : State) : State :=
  if s.phase = .ready then
    match s.head.mode, s.jobs.front with
    | .idle, _ => s
    | .waitLine, some j => underrunStep j s
    | .armed, some j => armedStep j s
    | .inFlight phase line, _ =>
      if line.ending then s
      else if s.head.latch then loseStep phase line s
      else { s with head := { s.head with latch := true } }
    | _, none => s
  else s

end Sys2Proof.Machine
end

