-- ==== Sys2Proof/Machine/Arbiter.lean ====
section
/-! DEFINITION. The arbiter: the requests of the four clients, the grant, and the access performed (R127 to R131); and
the moves of the upload channel that an access makes (R141, R142, R144). -/

namespace Sys2Proof.Machine

/-! ### The upload channel's moves -/

/-- The cursor after one byte: the next byte of the row, or the start of the next row (R141). -/
def Segment.advance (g : Segment) : Segment :=
  if g.position + 1 < g.rowBytes then { g with cursor := g.cursor + 1, position := g.position + 1 }
  else { g with cursor := g.cursor - g.position + g.stride, position := 0 }

/-- The current segment has ended: SEGMENT_DONE is posted if its notify is set, and the next segment becomes current or
the channel goes idle (R144). -/
def endSegment (g : Segment) (s : State) : State :=
  let t := if g.notify then post (reportSegmentDone g) s else s
  { t with upload := { t.upload with cur := t.upload.nxt, nxt := none } }

/-- The current segment has a new record; it ends when no byte is left (R144). -/
def setCurrent (g : Segment) (fifo : List Byte) (s : State) : State :=
  let t := { s with upload := { s.upload with cur := some g, fifo := fifo } }
  if g.bytesLeft = 0 then endSegment g t else t

/-- The store of the FIFO's head byte has been performed (R141). -/
def storePerformed (g : Segment) (s : State) : State :=
  setCurrent { g.advance with bytesLeft := g.bytesLeft - 1 } s.upload.fifo.tail s

/-- A prefetch has been performed and returned the byte: it joins the FIFO, and bytes left does not change (R142). -/
def prefetchPerformed (g : Segment) (v : Byte) (s : State) : State :=
  { s with upload := { s.upload with cur := some g.advance, fifo := s.upload.fifo ++ [v] } }

/-! ### Requests (R126, R127, log entry 10) -/

/-- The fetch asks for the next byte of its line (R108). -/
def fetchRequest (s : State) : Option Request :=
  match s.head.mode with
  | .inFlight .fetch line =>
    if line.bytes.length < s.headCfg.lineBytes then some ⟨line.addr + line.bytes.length, none⟩ else none
  | _ => none

/-- The upload channel asks for its store or its prefetch (R141, R142). -/
def uploadRequest (s : State) : Option Request :=
  match s.upload.cur with
  | some g =>
    match g.direction with
    | .dirIn =>
      match s.upload.fifo with
      | b :: _ => some ⟨g.cursor, some b⟩
      | [] => none
    | .dirOut => if s.upload.wantsPrefetch then some ⟨g.cursor, none⟩ else none
  | none => none

/-- The command port asks for the next write of the power-on clear or the next byte of the PROOF copy (R74, R133). -/
def portRequest (s : State) : Option Request :=
  match s.phase with
  | .clearing a => if a < Config.memSize then some ⟨a, some 0x00⟩ else none
  | .ready =>
    match s.port.proof with
    | some c => if c.copied.length < s.headCfg.lineBytes then some ⟨c.addr + c.copied.length, none⟩ else none
    | none => none
  | .held => none

/-- The request a client has waiting. -/
def requestOf (s : State) : Client → Option Request
  | .fetch => fetchRequest s
  | .rotating .renderer => rendererRequest s
  | .rotating .upload => uploadRequest s
  | .rotating .port => portRequest s

/-- The rotating clients in rotating order, starting with the one after a position (R127, R128). -/
def Rotating.after : Rotating → List Rotating
  | .renderer => [.upload, .port, .renderer]
  | .upload => [.port, .renderer, .upload]
  | .port => [.renderer, .upload, .port]

/-- A request granted to a client (R128). -/
def grantTo (c : Client) (r : Request) (s : State) : State :=
  { s with arbiter :=
    { inProgress := some ⟨c, r.addr, r.write, true⟩
      rotation := match c with
        | .fetch => s.arbiter.rotation
        | .rotating k => k } }

/-- The arbiter's choice: the fetch if it waits, otherwise the first waiting client in rotating order (R128). -/
def choice (s : State) : Option (Client × Request) :=
  match fetchRequest s with
  | some r => some (.fetch, r)
  | none =>
    (s.arbiter.rotation.after).findSome? fun k =>
      (requestOf s (.rotating k)).map fun r => (.rotating k, r)

/-- With no access in progress, the arbiter grants one of the waiting requests (R128). -/
def grant (s : State) : State :=
  match s.arbiter.inProgress with
  | some _ => s
  | none =>
    match choice s with
    | some (c, r) => grantTo c r s
    | none => s

/-! ### The access performed -/

/-- The byte an access writes reaches memory; a read leaves it (R124). -/
def State.land (s : State) (a : Access) : State :=
  match a.write with
  | some v => { s with mem := Memory.write s.mem a.addr v }
  | none => s

/-- A client's operation moves on: its access has been performed, and a read returned the byte. -/
def progress (c : Client) (v : Byte) (s : State) : State :=
  match c with
  | .fetch =>
    match s.head.mode with
    | .inFlight .fetch line => s.withMode (.inFlight .fetch { line with bytes := line.bytes ++ [v] })
    | _ => s
  | .rotating .renderer =>
    match s.renderer with
    | .rendering w => { s with renderer := .rendering (w.advance s v) }
    | _ => s
  | .rotating .upload =>
    match s.upload.cur with
    | some g =>
      match g.direction with
      | .dirIn => storePerformed g s
      | .dirOut => prefetchPerformed g v s
    | none => s
  | .rotating .port =>
    match s.phase with
    | .clearing a => { s with phase := .clearing (a + 1) }
    | _ =>
      match s.port.proof with
      | some c => { s with port := { s.port with proof := some { c with copied := c.copied ++ [v] } } }
      | none => s

/-- The access in progress is performed; one whose operation has ended moves nothing on (R128, R129). An end that the access brings
about for a fetch, a band or a PROOF copy is not taken here: the internal step takes it (Tick, `due`), and after a row that
performs the access it waits for the next internal step or for the row of that end (the model's choice, log entry 26). -/
def perform (s : State) : State :=
  match s.arbiter.inProgress with
  | none => s
  | some a =>
    let v := Memory.read s.mem a.addr
    let t := ({ s with arbiter := { s.arbiter with inProgress := none } } : State).land a
    if a.live then progress a.client v t else t

/-- The access in progress, if any, lies inside memory (R124). -/
def State.accessInside (s : State) : Bool :=
  match s.arbiter.inProgress with
  | some a => decide (a.addr < Config.memSize)
  | none => true

/-- The rotation position set to a client that has just been served (R128). -/
def State.served (s : State) (k : Rotating) : State :=
  { s with arbiter := { s.arbiter with rotation := k } }

/-- The rotation position after a row has performed the rest of a rotating client's operation: that client if the rest held an
access, and where it stood if no access was left, since nothing is then granted (R128, log entry 8). -/
def State.restServed (s : State) (left : Bool) (k : Rotating) : State :=
  { s with arbiter := { s.arbiter with rotation := if left then k else s.arbiter.rotation } }

/-- The PROOF copy still has bytes to read (R74). -/
def State.copyLeft (s : State) : Bool :=
  match s.port.proof with
  | some c => decide (c.copied.length < s.headCfg.lineBytes)
  | none => false

end Sys2Proof.Machine
end

