-- ==== Sys2Proof/Machine/Port.lean ====
section
/-! DEFINITION. The command port: a code offered at offset 2, taken or refused, carried out and completed
(R164 to R168). -/

namespace Sys2Proof.Machine

/-- What a command completes with: its result code and its answer (R166). -/
structure Reply where
  result : ResultCode
  answer : List Byte
  deriving DecidableEq, Repr

/-- A command as its block carries it out: from the parameters moved to it, the state after and its reply; no reply while
the command goes on (PROOF whose copy has begun). -/
abbrev Command := List Byte → State → State × Option Reply

/-- A refusal by the owning block: nothing changes and the answer is empty (R168). -/
def refusal (r : ResultCode) (s : State) : State × Option Reply := (s, some ⟨r, []⟩)

/-- Completion with OK and an answer. -/
def accept (answer : List Byte) (s : State) : State × Option Reply := (s, some ⟨.ok, answer⟩)

/-- A command whose checks gave a refusal or the values to act on. -/
def checked {α : Type} (c : Except ResultCode α) (act : α → State × Option Reply) (s : State) : State × Option Reply :=
  match c with
  | .ok v => act v
  | .error r => refusal r s

/-- The take of a code: the parameter buffer and the answer buffer empty, CMD_BUSY is set and the code becomes the value
read at offset 2 (R164). -/
def take (code : Byte) (s : State) : State :=
  { s with port := { s.port with params := [], answer := [], answerPos := 0, busy := true, cmd := code } }

/-- The completion of a command: RESULT and the answer are set, CMD_BUSY clears and DONE becomes pending (R166). -/
def complete (r : Reply) (s : State) : State :=
  { s with
    port := { s.port with result := r.result, answer := r.answer, answerPos := 0, busy := false }
    irq := { s.irq with done := true } }

/-- The completion, if the command has a reply. -/
def completeWith (x : State × Option Reply) : State :=
  match x.2 with
  | some r => complete r x.1
  | none => x.1

/-- A CMD write refused by the port sets CMD_REFUSED and does nothing else (R165). -/
def refuseWrite (s : State) : State := s.withSticky fun f => { f with cmdRefused := true }

/-- A CMD write of a code would be taken: READY is 1, and no command is busy or the code is that of SOFT_RESET (R164). -/
def takes (code : Byte) (s : State) : Bool :=
  s.isReady && (!s.port.busy || decide (code = Config.codeSoftReset))

/-- A CMD write offers a code: it is taken, carried out and completed as one step, or refused with CMD_REFUSED; while RESET
is asserted the access is not taken at all (R132, R164, R165, log entry 6). -/
def offer (code : Byte) (body : Command) (s : State) : State :=
  if s.phase = .held then s
  else if takes code s then completeWith (body s.port.params (take code s))
  else refuseWrite s

end Sys2Proof.Machine
end

