-- ==== Sys2Proof/Machine/JobCommands.lean ====
section
/-! DEFINITION. The job commands: OPEN_JOB, COMMIT, CLOSE_JOB, ABORT_JOB, QUERY_JOB (chapter 1). -/

namespace Sys2Proof.Machine

abbrev Result := Host.Outcome State Fault Refusal

/-! ### OPEN_JOB (R6, R7) -/

/-- The table is empty or holds exactly one job and that job is CLOSED (R6, check 1). -/
def JobTable.admitsOpen (t : JobTable) : Bool :=
  match t.front, t.back with
  | none, none => true
  | some j, none => decide (j.state = .closed)
  | _, _ => false

/-- The address after the last byte of a segment's span (R137). -/
def Segment.spanEnd (g : Segment) : Nat := g.address + (g.rows - 1) * g.stride + g.rowBytes

/-- A slot holds a segment whose span overlaps the band zone (R6, R137). -/
def State.slotOverZone (s : State) (slot : Option Segment) : Bool :=
  match slot with
  | some g => s.overlapsZone g.address g.spanEnd
  | none => false

/-- The checks of OPEN_JOB, in order (R6). -/
def openJobCheck (params : List Byte) (s : State) : Except ResultCode OpenParams :=
  if s.jobs.admitsOpen then
    match parseOpen params with
    | .error e => .error e
    | .ok p =>
      if (s.jobs.find p.tag).isSome then .error .dupTag
      else if s.slotOverZone s.upload.cur || s.slotOverZone s.upload.nxt then .error .zone
      else .ok p
  else .error .badState

/-- The record OPEN_JOB makes (R7). -/
def OpenParams.job (p : OpenParams) : Job :=
  { tag := p.tag, length := p.length, trailing := p.trailing, policy := p.policy, state := .opened
    commitRow := 0, rendered := 0, done := 0, blankRows := 0 }

/-- OPEN_JOB taken: into an empty table the job becomes front and the head channel begins it; beside a CLOSED job it
becomes the back job. The renderer looks (R7, R78). -/
def openJobAct (p : OpenParams) (s : State) : State :=
  match s.jobs.front with
  | none =>
    look (settle { s with
      jobs := { s.jobs with front := some p.job }
      head := { s.head with history := List.replicate s.headCfg.lineBytes 0x00, started := false } })
  | some _ => look { s with jobs := { s.jobs with back := some p.job } }

def openJobBody : Command := fun params s =>
  checked (openJobCheck params s) (fun p => accept [] (openJobAct p s)) s

/-- OPEN_JOB (R6, R7). -/
def execOpenJob (s : State) : Result := .next (offer Config.codeOpenJob openJobBody s)

/-! ### COMMIT and CLOSE_JOB (R8, R9) -/

/-- The checks of COMMIT, in order: the job and the row it raises the commit row to (R8). -/
def commitCheck (params : List Byte) (s : State) : Except ResultCode (Job × Nat) :=
  match s.jobs.openJob with
  | none => .error .badState
  | some j =>
    match parseRow params with
    | .error e => .error e
    | .ok row =>
      let row' := min row j.length
      if row' < j.commitRow then .error .badParam else .ok (j, row')

/-- COMMIT taken: a higher row becomes the commit row and the renderer looks; an equal one changes nothing (R8). -/
def commitAct (j : Job) (row : Nat) (s : State) : State :=
  if j.commitRow < row then
    look { s with jobs := s.jobs.update j.tag fun j => { j with commitRow := row } }
  else s

def commitBody : Command := fun params s =>
  checked (commitCheck params s) (fun x => accept [] (commitAct x.1 x.2 s)) s

/-- COMMIT (R8). -/
def execCommit (s : State) : Result := .next (offer Config.codeCommit commitBody s)

/-- The checks of CLOSE_JOB, in order (R9). -/
def closeJobCheck (params : List Byte) (s : State) : Except ResultCode Job :=
  match s.jobs.openJob with
  | none => .error .badState
  | some j =>
    match parseNone params with
    | .error e => .error e
    | .ok _ => .ok j

/-- CLOSE_JOB taken: CLOSED, the commit row at the length, and the renderer looks (R9). -/
def closeJobAct (j : Job) (s : State) : State :=
  look { s with jobs := s.jobs.update j.tag fun j => { j with state := .closed, commitRow := j.length } }

def closeJobBody : Command := fun params s =>
  checked (closeJobCheck params s) (fun j => accept [] (closeJobAct j s)) s

/-- CLOSE_JOB (R9). -/
def execCloseJob (s : State) : Result := .next (offer Config.codeCloseJob closeJobBody s)

/-! ### ABORT_JOB (R16, R18, R19, R21) -/

/-- The checks of ABORT_JOB, in order (R16). -/
def abortJobCheck (params : List Byte) (s : State) : Except ResultCode Job :=
  match parseByte params with
  | .error e => .error e
  | .ok tag =>
    match s.jobs.find tag with
    | none => .error .noJob
    | some j => if j.isAborting then .error .badState else .ok j

/-- ABORT_JOB taken: a front job with a line in flight waits for the line; any other job leaves at once (R18, R19, R21). -/
def abortJobAct (j : Job) (s : State) : State :=
  if s.jobs.isFront j.tag then
    if s.head.lineInFlight then abortInFlight .host s else settle (abortFrontAtOnce j .host s)
  else abortBack j s

def abortJobBody : Command := fun params s =>
  checked (abortJobCheck params s) (fun j => accept [] (abortJobAct j s)) s

/-- ABORT_JOB (R16). -/
def execAbortJob (s : State) : Result := .next (offer Config.codeAbortJob abortJobBody s)

/-! ### QUERY_JOB (R10, R179) -/

/-- The answer of QUERY_JOB (R179). -/
def Job.answer (j : Job) (isFront : Bool) : List Byte :=
  [j.tag, if isFront then 0x00 else 0x01, j.state.code, j.policy.code] ++
    bytes2 j.length ++ bytes2 j.trailing ++ bytes2 j.commitRow ++ bytes2 j.rendered ++
    bytes3 j.done ++ bytes2 j.blankRows ++ [j.state.causeCode]

/-- The checks of QUERY_JOB, in order (R10). -/
def queryJobCheck (params : List Byte) (s : State) : Except ResultCode Job :=
  match parseByte params with
  | .error e => .error e
  | .ok tag =>
    match s.jobs.find tag with
    | none => .error .noJob
    | some j => .ok j

def queryJobBody : Command := fun params s =>
  checked (queryJobCheck params s) (fun j => accept (j.answer (s.jobs.isFront j.tag)) s) s

/-- QUERY_JOB (R10). -/
def execQueryJob (s : State) : Result := .next (offer Config.codeQueryJob queryJobBody s)

end Sys2Proof.Machine
end

