-- ==== Sys2Proof/Machine/HeadEvents.lean ====
section
/-! DEFINITION. The rows of the head channel: LINE_STEP, LINE_FETCH_END, SHIFT_END, STROBE_PULSE_END, HOT_HOLD_EXPIRE
(R105, R108, R109, R110, R120). -/

namespace Sys2Proof.Machine

/-- LINE_STEP (R105). -/
def execLineStep (s : State) : Result := .next (lineStepOp s)

/-- The line in flight with what is left of its bytes read from its band (R108). -/
def Line.fetched (line : Line) (m : Memory) (w : Nat) : Line :=
  { line with bytes := line.bytes ++ Memory.readRange m (line.addr + line.bytes.length) (w - line.bytes.length) }

/-- The fetch ends (R108). -/
def endFetch (s : State) : State :=
  match s.head.mode with
  | .inFlight .fetch line => lineFetched (line.fetched s.mem s.headCfg.lineBytes) s
  | _ => s

/-- LINE_FETCH_END (R108): what is left of the fetch is read and the head channel looks at the line. With no fetch in
progress nothing changes (log entries 7 and 8). An end that another client's access in progress brings about waits (log entry
26). -/
def execLineFetchEnd (s : State) : Result :=
  match s.head.mode with
  | .inFlight .fetch line =>
    if s.accessInside && decide (line.addr + s.headCfg.lineBytes ≤ Config.memSize) then .next (endFetch (perform s))
    else .fault .addressOutsideMemory
  | _ => .next s

/-- SHIFT_END (R109). With no shift in progress nothing changes (log entry 7). -/
def execShiftEnd (s : State) : Result := .next (endShift s)

/-- STROBE_PULSE_END (R110). With no pulse in progress nothing changes (log entry 7). -/
def execStrobePulseEnd (s : State) : Result := .next (endPulse s)

/-- HOT_HOLD_EXPIRE (R120). With no hot hold nothing changes (log entry 7). -/
def execHotHoldExpire (s : State) : Result := .next (expireHold s)

end Sys2Proof.Machine
end

