-- ==== Sys2Proof/Machine/PinEvents.lean ====
section
/-! DEFINITION. The pins and the power-on clear: RESET, HOT, PAPER (R104, R119, R132, R133, R157). -/

namespace Sys2Proof.Machine

/-- Every block in its reset condition; the memory's bytes, the input levels and the waiting rows stay (R132, log entry 22). -/
def State.inReset (s : State) (phase : PowerPhase) : State :=
  { State.powerOn s.hot s.paper with phase := phase, mem := s.mem, dataOut := s.dataOut, pending := s.pending }

/-- RESET_ASSERTED (R132). A power-on clear stops where it stands. -/
def execResetAsserted (s : State) : Result := .next (s.inReset .held)

/-- The release of RESET: the copy of HOT and PAPER is taken and the power-on clear starts from address 0000h (R133, R157). -/
def resetReleasedOp (s : State) : State :=
  match s.phase with
  | .held => s.inReset (.clearing 0)
  | _ => s

/-- RESET_RELEASED (R133). With RESET not asserted nothing changes (log entry 7). -/
def execResetReleased (s : State) : Result := .next (resetReleasedOp s)

/-- The power-on clear from an address to its end: READY becomes 1, DONE is not raised, and the glyph store holds its
power-on descriptors (R49, R133). -/
def endClear (a : Nat) (s : State) : State :=
  { s with mem := Memory.clearFrom s.mem a, glyphs := [], phase := .ready }

/-- The rest of the power-on clear, if it is running. -/
def finishClear (s : State) : State :=
  match s.phase with
  | .clearing a => (endClear a s).restServed (decide (a < Config.memSize)) .port
  | _ => s

/-- POWER_ON_CLEAR_COMPLETE (R133): what is left of the clear is written and READY becomes 1. With no clear running nothing
changes (log entries 7 and 8). -/
def execPowerOnClearComplete (s : State) : Result :=
  match s.phase with
  | .clearing _ => if s.accessInside then .next (finishClear (perform s)) else .fault .addressOutsideMemory
  | _ => .next s

/-- The interrupt unit sees a change of an input: the copy takes the levels and INPUT becomes pending (R157). -/
def State.latchInput (s : State) : State :=
  { s with irq := { s.irq with input := true, seenHot := s.hot, seenPaper := s.paper } }

/-- HOT goes to a level: a change against the copy latches INPUT, and a release resumes a held pass (R119, R157). While
RESET is asserted only the level follows. -/
def hotChangeOp (asserted : Bool) (s : State) : State :=
  let t := { s with hot := asserted }
  if s.phase = .held then t
  else if asserted = s.irq.seenHot then t
  else if asserted then t.latchInput
  else releaseHold t.latchInput

/-- HOT_CHANGE (R157). -/
def execHotChange (asserted : Bool) (s : State) : Result := .next (hotChangeOp asserted s)

/-- PAPER goes to a level: a change against the copy latches INPUT; FEEDREQ follows PAPER while ARMED (R104, R157). -/
def paperChangeOp (present : Bool) (s : State) : State :=
  let t := { s with paper := present }
  if s.phase = .held then t
  else if present = s.irq.seenPaper then t
  else t.latchInput

/-- PAPER_CHANGE (R104, R157). -/
def execPaperChange (present : Bool) (s : State) : Result := .next (paperChangeOp present s)

end Sys2Proof.Machine
end

