-- ==== Sys2Proof/Machine/ConfigCommands.lean ====
section
/-! DEFINITION. SET_HEAD, SET_BANDS and SOFT_RESET (R62, R63, R100, R175, R176). -/

namespace Sys2Proof.Machine

/-! ### SET_HEAD (R100) -/

/-- The checks of SET_HEAD, in order (R100). -/
def setHeadCheck (params : List Byte) (s : State) : Except ResultCode HeadConfig :=
  if s.jobs.isEmpty then
    match parseHead params with
    | .error e => .error e
    | .ok c =>
      if Config.memSize < s.ring.base + zoneBytes s.ring.n c.lineBytes s.ring.h then .error .range else .ok c
  else .error .badState

/-- SET_HEAD taken: the six values, and the history line cleared at the new width (R100, R112). -/
def setHeadAct (c : HeadConfig) (s : State) : State := ({ s with headCfg := c } : State).clearHistory

def setHeadBody : Command := fun params s =>
  checked (setHeadCheck params s) (fun c => accept [] (setHeadAct c s)) s

/-- SET_HEAD (R100). -/
def execSetHead (s : State) : Result := .next (offer Config.codeSetHead setHeadBody s)

/-! ### SET_BANDS (R62, R63) -/

/-- The checks of SET_BANDS, in order (R62). -/
def setBandsCheck (params : List Byte) (s : State) : Except ResultCode BandParams :=
  if s.jobs.isEmpty then
    match parseBands params with
    | .error e => .error e
    | .ok p =>
      if Config.memSize < p.base + zoneBytes p.n s.headCfg.lineBytes p.h then .error .range else .ok p
  else .error .badState

/-- SET_BANDS taken: the new configuration, every band FREE, the claim index 0 (R63). -/
def setBandsAct (p : BandParams) (s : State) : State :=
  { s with ring := ⟨p.base, p.h, p.n, List.replicate p.n none, 0⟩ }

def setBandsBody : Command := fun params s =>
  checked (setBandsCheck params s) (fun p => accept [] (setBandsAct p s)) s

/-- SET_BANDS (R62). -/
def execSetBands (s : State) : Result := .next (offer Config.codeSetBands setBandsBody s)

/-! ### SOFT_RESET (R175, R176) -/

/-- The access in progress is performed, so the byte it writes is left in memory (R134). -/
def State.landInProgress (s : State) : State :=
  match s.arbiter.inProgress with
  | some a => s.land a
  | none => s

/-- What SOFT_RESET does to the blocks when it is taken (R175): the configurations, the glyph store, raster memory, the
interrupt enables and the copy of the inputs are kept. -/
def softResetAct (s : State) : State :=
  let t := s.landInProgress
  { t with
    port := { t.port with
      params := [], answer := [], answerPos := 0, capture := 0x00, proof := none
      sticky := ⟨false, false, false, false, false⟩ }
    jobs := ⟨none, none⟩
    placements := []
    ring := { t.ring with bands := List.replicate t.ring.n none, claim := 0 }
    renderer := .idle
    head := ⟨.idle, List.replicate t.headCfg.lineBytes 0x00, false, false⟩
    arbiter := ⟨none, .port⟩
    upload := ⟨none, none, []⟩
    reports := ⟨[], 0⟩
    irq := { t.irq with input := false, done := false } }

/-- SOFT_RESET ignores its parameters and is never refused by its block (R175). -/
def softResetBody : Command := fun _ s => accept [] (softResetAct s)

/-- SOFT_RESET (R175). -/
def execSoftReset (s : State) : Result := .next (offer Config.codeSoftReset softResetBody s)

end Sys2Proof.Machine
end

