-- ==== Sys2Proof/Machine/GlyphCommands.lean ====
section
/-! DEFINITION. The glyph commands: DEFINE_GLYPH and RESTORE_GLYPH (chapter 3). -/

namespace Sys2Proof.Machine

/-- The checks of DEFINE_GLYPH, in order (R52). -/
def defineGlyphCheck (params : List Byte) (s : State) : Except ResultCode GlyphEntry :=
  match parseGlyph params with
  | .error e => .error e
  | .ok e =>
    let last := e.glyph.base + e.glyph.footprint
    if Config.memSize < last then .error .range
    else if s.overlapsZone e.glyph.base last then .error .zone
    else .ok e

/-- DEFINE_GLYPH taken: the code's descriptor becomes the RAM descriptor, whole (R53). -/
def defineGlyphAct (e : GlyphEntry) (s : State) : State := { s with glyphs := setGlyph s.glyphs e }

def defineGlyphBody : Command := fun params s =>
  checked (defineGlyphCheck params s) (fun e => accept [] (defineGlyphAct e s)) s

/-- DEFINE_GLYPH (R52). -/
def execDefineGlyph (s : State) : Result := .next (offer Config.codeDefineGlyph defineGlyphBody s)

/-- RESTORE_GLYPH taken: the code's descriptor is what power-on gives it (R54). -/
def restoreGlyphAct (code : Byte) (s : State) : State := { s with glyphs := unsetGlyph s.glyphs code }

def restoreGlyphBody : Command := fun params s =>
  checked (parseByte params) (fun code => accept [] (restoreGlyphAct code s)) s

/-- RESTORE_GLYPH (R54). -/
def execRestoreGlyph (s : State) : Result := .next (offer Config.codeRestoreGlyph restoreGlyphBody s)

end Sys2Proof.Machine
end

