-- ==== Sys2Proof/Machine/PlacementCommands.lean ====
section
/-! DEFINITION. The placement commands: PLACE and WITHDRAW (chapter 2). -/

namespace Sys2Proof.Machine

/-! ### PLACE (R29, R33 to R37) -/

/-- The height of a run: the tallest height among its descriptors (R29). -/
def State.runHeight (s : State) (codes : List Byte) : Nat :=
  codes.foldl (fun h c => max h (s.glyph c).height) 0

/-- The width of a run: the advances and spacings, less one spacing (R29). -/
def State.runWidth (s : State) (spacing : Nat) (codes : List Byte) : Nat :=
  codes.foldl (fun w c => w + (s.glyph c).advance + spacing) 0 - spacing

/-- The kind and the extent of a placement whose kind part passes checks 6 and 7 (R34). -/
def placeKindCheck (p : PlaceParams) (s : State) : Except ResultCode (PlaceKind × Nat × Nat) :=
  match p.body with
  | .bar w h => .ok (.bar, w, h)
  | .image w h source stride =>
    let last := source + (h - 1) * stride + ceil8 w
    if Config.memSize < last then .error .range
    else if s.overlapsZone source last then .error .zone
    else .ok (.image source stride, w, h)
  | .glyphs spacing codes =>
    if codes.any fun c => decide (s.glyph c = .undefined) then .error .badGlyph
    else if pitchCovers p.common.repetition (s.runHeight codes) then
      .ok (.glyphs spacing codes, s.runWidth spacing codes, s.runHeight codes)
    else .error .badParam

/-- The checks of PLACE, in order, and the record it accepts (R34, R37). -/
def placeCheck (params : List Byte) (s : State) : Except ResultCode Placement :=
  match s.jobs.openJob with
  | none => .error .badState
  | some j =>
    match parsePlace params with
    | .error e => .error e
    | .ok p =>
      if j.length ≤ p.common.top then .error .range
      else if p.common.top < j.commitRow then .error .late
      else
        match placeKindCheck p s with
        | .error e => .error e
        | .ok (kind, width, height) =>
          match freeHandle s.placements with
          | none => .error .tableFull
          | some handle => .ok {
              handle := handle
              job := j.tag
              kind := kind
              op := p.common.op
              inverse := p.common.inverse
              notify := p.common.notify
              top := p.common.top
              left := p.common.left
              width := width
              height := height
              repetition := p.common.repetition
              active := false
              lastRow := lastRowOf p.common.top height j.length p.common.repetition }

/-- The answer of PLACE (R37, R179). -/
def Placement.answer (p : Placement) : List Byte :=
  [byteOf p.handle] ++ bytes2 p.width ++ bytes2 p.height ++ bytes2 p.lastRow

/-- PLACE accepted: the slot receives the record and joins the tail of the placement list (R37). -/
def placeAct (p : Placement) (s : State) : State := { s with placements := s.placements ++ [p] }

def placeBody : Command := fun params s =>
  checked (placeCheck params s) (fun p => accept p.answer (placeAct p s)) s

/-- PLACE (R34). -/
def execPlace (s : State) : Result := .next (offer Config.codePlace placeBody s)

/-! ### WITHDRAW (R39) -/

/-- The checks of WITHDRAW, in order: the handle of a PENDING placement (R39). -/
def withdrawCheck (params : List Byte) (s : State) : Except ResultCode Nat :=
  match parseByte params with
  | .error e => .error e
  | .ok b =>
    if Config.slotCount ≤ b.toNat then .error .badParam
    else match findPlacement s.placements b.toNat with
      | none => .error .noSuchHandle
      | some p => if p.active then .error .tooLate else .ok b.toNat

/-- WITHDRAW of a PENDING placement: its slot becomes FREE and no report is posted (R39). -/
def withdrawAct (handle : Nat) (s : State) : State :=
  { s with placements := s.placements.filter fun p => decide (p.handle ≠ handle) }

def withdrawBody : Command := fun params s =>
  checked (withdrawCheck params s) (fun h => accept [] (withdrawAct h s)) s

/-- WITHDRAW (R39). -/
def execWithdraw (s : State) : Result := .next (offer Config.codeWithdraw withdrawBody s)

end Sys2Proof.Machine
end

