-- ==== Sys2Proof/Machine/ProofCommands.lean ====
section
/-! DEFINITION. PROOF and the end of its copy (R73 to R75). -/

namespace Sys2Proof.Machine

/-- A row of a PRINTING band has not yet been fetched: it lies below the line in flight, or with no line in flight at or
below the job's next row (R69, R73). -/
def State.notFetched (s : State) (j : Job) (row : Nat) : Bool :=
  match s.head.mode with
  | .inFlight _ line => decide (line.row < row)
  | _ => decide (j.done ≤ row)

/-- A band holds a row of a job for PROOF (R73). -/
def State.proofHolds (s : State) (j : Job) (row : Nat) (b : Band) : Bool :=
  decide (b.job = j.tag) && b.holds row &&
    match b.state with
    | .ready => decide (j.done ≤ row)
    | .printing => s.notFetched j row
    | .rendering => false

/-- The band that holds a row of the job of a tag for PROOF (R73). -/
def State.proofBand (s : State) (tag : Byte) (row : Nat) : Option Nat :=
  match s.jobs.find tag with
  | none => none
  | some j =>
    s.ring.bands.findIdx? fun b =>
      match b with
      | some b => s.proofHolds j row b
      | none => false

/-- The checks of PROOF, in order: the copy to begin (R73). -/
def proofCheck (params : List Byte) (s : State) : Except ResultCode ProofCopy :=
  match parseProof params with
  | .error e => .error e
  | .ok (tag, row) =>
    match s.proofBand tag row with
    | none => .error .notHeld
    | some i =>
      match s.ring.bandAt i with
      | some b => .ok ⟨i, s.lineAddr i b.first row, []⟩
      | none => .error .notHeld

/-- PROOF found the row held: the copy begins, the band is under a PROOF hold, and the command goes on (R74). -/
def proofAct (c : ProofCopy) (s : State) : State × Option Reply :=
  ({ s with port := { s.port with proof := some c } }, none)

def proofBody : Command := fun params s => checked (proofCheck params s) (fun c => proofAct c s) s

/-- PROOF (R73). -/
def execProof (s : State) : Result := .next (offer Config.codeProof proofBody s)

/-- The bytes of the copy: those copied and the rest of the line as memory holds it (R74). -/
def ProofCopy.line (c : ProofCopy) (m : Memory) (w : Nat) : List Byte :=
  c.copied ++ Memory.readRange m (c.addr + c.copied.length) (w - c.copied.length)

/-- The copy completes: the hold ends, the answer holds the line, PROOF completes with OK, and the renderer looks
(R74, R78). -/
def endProof (s : State) : State :=
  match s.port.proof with
  | some c =>
    look (complete ⟨.ok, c.line s.mem s.headCfg.lineBytes⟩ { s with port := { s.port with proof := none } })
  | none => s

/-- PROOF_COPY_COMPLETE (R74): what is left of the copy is read and the copy completes. With no copy in progress nothing
changes (log entries 7 and 8). An end that another client's access in progress brings about waits (log entry 26). -/
def execProofCopyComplete (s : State) : Result :=
  match s.port.proof with
  | some c =>
    if s.accessInside && decide (c.addr + s.headCfg.lineBytes ≤ Config.memSize) then
      let t := perform s
      .next (endProof (t.restServed t.copyLeft .port))
    else .fault .addressOutsideMemory
  | none => .next s

end Sys2Proof.Machine
end

