-- ==== Sys2Proof/Machine/UploadCommands.lean ====
section
/-! DEFINITION. The upload channel: LOAD_SEGMENT, STOP_UPLOAD, the accesses to DATA, and the store and the prefetch
(chapter 8). -/

namespace Sys2Proof.Machine

/-! ### LOAD_SEGMENT (R138, R139) -/

/-- The checks of LOAD_SEGMENT, in order (R138). -/
def loadSegmentCheck (params : List Byte) (s : State) : Except ResultCode Segment :=
  match parseSegment params with
  | .error e => .error e
  | .ok g =>
    if s.upload.cur.isSome && s.upload.nxt.isSome then .error .slotsFull
    else if Config.memSize < g.spanEnd then .error .range
    else if !s.jobs.isEmpty && s.overlapsZone g.address g.spanEnd then .error .zone
    else .ok g

/-- LOAD_SEGMENT taken: into the current slot if the channel is idle, otherwise into the next slot (R139). -/
def loadSegmentAct (g : Segment) (s : State) : State :=
  match s.upload.cur with
  | none => { s with upload := { s.upload with cur := some g } }
  | some _ => { s with upload := { s.upload with nxt := some g } }

def loadSegmentBody : Command := fun params s =>
  checked (loadSegmentCheck params s) (fun g => accept [] (loadSegmentAct g s)) s

/-- LOAD_SEGMENT (R138). -/
def execLoadSegment (s : State) : Result := .next (offer Config.codeLoadSegment loadSegmentBody s)

/-! ### STOP_UPLOAD (R148) -/

/-- The bytes left of the current segment, or 0 (R148). -/
def Upload.left (u : Upload) : Nat :=
  match u.cur with
  | some g => g.bytesLeft
  | none => 0

/-- STOP_UPLOAD taken: both slots and the FIFO empty; an access in progress is performed for nothing (R129, R148). -/
def stopUploadAct (s : State) : State :=
  ({ s with upload := ⟨none, none, []⟩ } : State).orphan (.rotating .upload)

def stopUploadBody : Command := fun params s =>
  checked (parseNone params) (fun _ => accept (bytes3 s.upload.left) (stopUploadAct s)) s

/-- STOP_UPLOAD (R148). -/
def execStopUpload (s : State) : Result := .next (offer Config.codeStopUpload stopUploadBody s)

/-! ### The accesses to DATA (R140, R143, R147) -/

/-- A write to offset 5: it joins the FIFO of an IN segment that offers room, or is discarded with DATA_SPILL (R140). -/
def dataWriteOp (v : Byte) (s : State) : State :=
  if s.phase = .held then s
  else if s.upload.room then { s with upload := { s.upload with fifo := s.upload.fifo ++ [v] } }
  else s.withSticky fun f => { f with dataSpill := true }

/-- DATA_WRITE (R140). -/
def execDataWrite (v : Byte) (s : State) : Result := .next (dataWriteOp v s)

/-- A read of offset 5 that found a byte: the FIFO head, which leaves it, and bytes left falls by one (R143). -/
def takeDataByte (g : Segment) (v : Byte) (rest : List Byte) (s : State) : State :=
  setCurrent { g with bytesLeft := g.bytesLeft - 1 } rest { s with dataOut := v }

/-- A read of offset 5 that found none: 00h with DATA_SHORT (R143). -/
def shortData (s : State) : State :=
  ({ s with dataOut := 0x00 } : State).withSticky fun f => { f with dataShort := true }

/-- A read of offset 5 (R143, R147); while RESET is asserted it returns 00h and is not taken (R132). -/
def dataReadOp (s : State) : State :=
  if s.phase = .held then { s with dataOut := 0x00 }
  else match s.upload.cur, s.upload.fifo with
  | some g, v :: rest => if g.direction = .dirOut then takeDataByte g v rest s else shortData s
  | _, _ => shortData s

/-- DATA_READ (R143). -/
def execDataRead (s : State) : Result := .next (dataReadOp s)

/-! ### The store and the prefetch (R141, R142, log entry 8) -/

/-- The access in progress is the upload channel's own, for its current segment. -/
def State.uploadInProgress (s : State) : Bool :=
  match s.arbiter.inProgress with
  | some a => decide (a.client = .rotating .upload) && a.live
  | none => false

/-- A store performed now: the byte at the FIFO's head goes to the cursor's address and the cursor advances (R141). -/
def storeNow (g : Segment) (v : Byte) (s : State) : State :=
  storePerformed g ((s.land ⟨.rotating .upload, g.cursor, some v, true⟩).served .upload)

/-- A prefetch performed now: the byte at the cursor's address joins the FIFO and the cursor advances (R142). -/
def prefetchNow (g : Segment) (s : State) : State :=
  prefetchPerformed g (Memory.read s.mem g.cursor) (s.served .upload)

/-- UPLOAD_STORE (R141): the channel's own access in progress is performed; with none in progress the arbiter performs
the access of another client first, if one is in progress, and then the store. With no IN segment current or no byte in the
FIFO there is no store, and nothing changes (log entry 7). An end that the other client's access brings about waits for the next
internal step or its own row (log entry 26). -/
def execUploadStore (s : State) : Result :=
  match s.upload.cur, s.upload.fifo with
  | some g, v :: _ =>
    if g.direction = .dirIn then
      if s.accessInside && decide (g.cursor < Config.memSize) then
        .next (if s.uploadInProgress then perform s else storeNow g v (perform s))
      else .fault .addressOutsideMemory
    else .next s
  | _, _ => .next s

/-- UPLOAD_PREFETCH (R142): as UPLOAD_STORE for an OUT segment, and with the same ends left waiting (log entry 26). When the
channel has no prefetch in progress and asks for none, nothing changes (log entry 7). -/
def execUploadPrefetch (s : State) : Result :=
  match s.upload.cur with
  | some g =>
    if g.direction = .dirOut ∧ (s.uploadInProgress ∨ s.upload.wantsPrefetch) then
      if s.accessInside && decide (g.cursor < Config.memSize) then
        .next (if s.uploadInProgress then perform s else prefetchNow g (perform s))
      else .fault .addressOutsideMemory
    else .next s
  | none => .next s

end Sys2Proof.Machine
end

