-- ==== Sys2Proof/Machine/PortAccesses.lean ====
section
/-! DEFINITION. The window accesses: PARAM, ANSWER, REPORT, IRQ_PEND, IRQ_EN, ROW_DONE, STICKY, the discarded writes, a CMD
write of any code (R156, R159, R161, R163, R165, R167, R169, R172, R173). -/

namespace Sys2Proof.Machine

/-! ### A CMD write of any code (R164, R165, R167) -/

/-- A code that names no command completes at once with UNKNOWN_COMMAND and an empty answer (R167). -/
def unknownBody : Command := fun _ s => refusal .unknownCommand s

/-- The command a code names (R178). -/
def bodyOf (code : Byte) : Command :=
  match code.toNat with
  | 0x10 => setHeadBody
  | 0x11 => setBandsBody
  | 0x20 => defineGlyphBody
  | 0x21 => restoreGlyphBody
  | 0x30 => openJobBody
  | 0x31 => commitBody
  | 0x32 => closeJobBody
  | 0x33 => abortJobBody
  | 0x34 => queryJobBody
  | 0x40 => placeBody
  | 0x41 => withdrawBody
  | 0x50 => loadSegmentBody
  | 0x51 => stopUploadBody
  | 0x60 => proofBody
  | 0xA5 => softResetBody
  | _ => unknownBody

/-- A write to offset 2 (R164, R165). -/
def writeCmd (code : Byte) (s : State) : State := offer code (bodyOf code) s

/-- UNKNOWN_COMMAND (R167). For a code that names a command the row is that command's CMD write (log entry 9). -/
def execUnknownCommand (code : Byte) (s : State) : Result := .next (writeCmd code s)

/-- CMD_WRITE_REFUSED (R165): a CMD write of the code, refused with CMD_REFUSED while a command is busy or READY is 0. In a
state in which the port would take the code the row is that command's CMD write (log entry 9). -/
def execCmdWriteRefused (code : Byte) (s : State) : Result := .next (writeCmd code s)

/-! ### PARAM and ANSWER (R163, R169) -/

/-- A write to offset 3 (R163). -/
def paramWriteOp (v : Byte) (s : State) : State :=
  if s.phase = .held then s
  else if s.port.params.length < Config.paramMax then
    { s with port := { s.port with params := s.port.params ++ [v] } }
  else s.withSticky fun f => { f with paramSpill := true }

/-- PARAM_WRITE (R163). -/
def execParamWrite (v : Byte) (s : State) : Result := .next (paramWriteOp v s)

/-- A read of offset 4 (R169); while RESET is asserted it returns 00h and is not taken (R132). -/
def answerReadOp (s : State) : State :=
  if s.phase = .held then { s with dataOut := 0x00 }
  else if s.port.answerPos < s.port.answer.length then
    { s with dataOut := s.port.answerByte, port := { s.port with answerPos := s.port.answerPos + 1 } }
  else { s with dataOut := 0x00 }

/-- ANSWER_READ (R169). -/
def execAnswerRead (s : State) : Result := .next (answerReadOp s)

/-! ### REPORT (R154) -/

/-- The queue after a read: the position advances, and the read of the eighth byte removes the head record (R154). -/
def ReportQueue.afterRead (q : ReportQueue) : ReportQueue :=
  match q.records with
  | [] => q
  | _ :: rest => if q.readPos < 7 then { q with readPos := q.readPos + 1 } else ⟨rest, 0⟩

/-- A read of offset 6 (R154); while RESET is asserted it returns 00h and is not taken (R132). -/
def reportReadOp (s : State) : State :=
  if s.phase = .held then { s with dataOut := 0x00 }
  else { s with dataOut := s.reports.byte, reports := s.reports.afterRead }

/-- REPORT_READ (R154). -/
def execReportRead (s : State) : Result := .next (reportReadOp s)

/-! ### Interrupts, ROW_DONE and STICKY (R156, R159, R172, R173) -/

/-- A write to offset 7 clears each latched source written with 1 (R156). -/
def irqPendWriteOp (v : Byte) (s : State) : State :=
  if s.phase = .held then s
  else { s with irq := { s.irq with input := s.irq.input && !v.getLsbD 2, done := s.irq.done && !v.getLsbD 3 } }

/-- IRQ_PEND_WRITE (R156). -/
def execIrqPendWrite (v : Byte) (s : State) : Result := .next (irqPendWriteOp v s)

/-- A write to offset 8 sets the enables (R159). -/
def irqEnWriteOp (v : Byte) (s : State) : State :=
  if s.phase = .held then s else { s with irq := { s.irq with enable := Sources.ofByte v } }

/-- IRQ_EN_WRITE (R159). -/
def execIrqEnWrite (v : Byte) (s : State) : Result := .next (irqEnWriteOp v s)

/-- A read of offset C returns the low byte of the front job's done row and captures its high byte (R173). -/
def rowDoneLowReadOp (s : State) : State :=
  if s.phase = .held then { s with dataOut := 0x00 }
  else { s with
    dataOut := byteOf s.jobs.frontDone
    port := { s.port with capture := byteOf (s.jobs.frontDone / 256) } }

/-- ROW_DONE_LOW_READ (R173). -/
def execRowDoneLowRead (s : State) : Result := .next (rowDoneLowReadOp s)

/-- A write to offset F clears each flag written with 1 (R172). -/
def stickyWriteOp (v : Byte) (s : State) : State :=
  if s.phase = .held then s else s.withSticky fun f => f.clearedBy v

/-- STICKY_WRITE (R172). -/
def execStickyWrite (v : Byte) (s : State) : Result := .next (stickyWriteOp v s)

/-! ### A write to any offset (R161) -/

/-- A write of a byte to an offset: the offsets that take writes have their own rules, every other write is discarded. -/
def writeRegister (offset : BitVec 4) (v : Byte) (s : State) : State :=
  match offset.toNat with
  | 0x2 => writeCmd v s
  | 0x3 => paramWriteOp v s
  | 0x5 => dataWriteOp v s
  | 0x7 => irqPendWriteOp v s
  | 0x8 => irqEnWriteOp v s
  | 0xF => stickyWriteOp v s
  | _ => s

/-- REGISTER_WRITE_DISCARDED (R161): a write to an offset marked Discarded changes nothing. At any other offset the row is
that offset's write (log entry 9). -/
def execRegisterWriteDiscarded (offset : BitVec 4) (v : Byte) (s : State) : Result := .next (writeRegister offset v s)

end Sys2Proof.Machine
end

