-- ==== Sys2Proof/Machine/RenderEvents.lean ====
section
/-! DEFINITION. The completion of a band: BAND_COMPLETE (R12, R43, R68, R96). -/

namespace Sys2Proof.Machine

/-- A placement retires at the completion of a band: it is of the band's job and its last row lies within the band's rows
(R43). -/
def retiresIn (w : Work) (p : Placement) : Bool :=
  decide (p.job = w.job ∧ w.first ≤ p.lastRow ∧ p.lastRow < w.first + w.count)

/-- The reports of the placements that retire, in placement-list order (R43, R44). -/
def retiredReports (w : Work) (ps : List Placement) : List Report :=
  (ps.filter fun p => retiresIn w p && p.notify).map reportRetired

/-- The record of a completed band: READY, or FREE when the head has consumed every row of it (R68). -/
def completedBand (w : Work) (t : JobTable) : Option Band :=
  match t.find w.job with
  | some j => if w.first + w.count ≤ j.done then none else some ⟨.ready, w.job, w.first, w.count⟩
  | none => some ⟨.ready, w.job, w.first, w.count⟩

/-- The band's completion as one event: the record, the rendered row, the retirements, and then the renderer looks and the
head channel settles (R96, R103). -/
def bandDone (w : Work) (s : State) : State :=
  let t := s.setBand w.band (completedBand w s.jobs)
  let t := { t with
    jobs := t.jobs.update w.job fun j => { j with rendered := w.first + w.count }
    placements := t.placements.filter fun p => !retiresIn w p
    renderer := .idle }
  settle (look (postAll (retiredReports w s.placements) t))

/-- What is left of the composition is performed and the band completes (R87, R96). -/
def finishBand (s : State) : State :=
  match s.renderer with
  | .rendering w => bandDone w ({ s with mem := composeRest s w } : State)
  | _ => s

/-- BAND_COMPLETE (R96). With no band being composed nothing changes (log entries 7 and 8). An end that another
client's access in progress brings about waits (log entry 26). -/
def execBandComplete (s : State) : Result :=
  match s.renderer with
  | .rendering w =>
    if s.accessInside && s.composeInside w then
      let t := perform s
      .next (finishBand (t.restServed (!t.composed) .renderer))
    else .fault .addressOutsideMemory
  | _ => .next s

end Sys2Proof.Machine
end

