-- ==== Sys2Proof/Machine/Dispatch.lean ====
section
/-! DEFINITION. One arm for each row of the table, each a direct call of its meaning. -/

namespace Sys2Proof.Machine

/-- The effect of a row on everything but the queue. -/
def exec (i : Instr) (s : State) : Host.Outcome State Fault Refusal :=
  match i with
  | .softReset => Sys2Proof.Machine.execSoftReset s
  | .setHead => Sys2Proof.Machine.execSetHead s
  | .setBands => Sys2Proof.Machine.execSetBands s
  | .defineGlyph => Sys2Proof.Machine.execDefineGlyph s
  | .restoreGlyph => Sys2Proof.Machine.execRestoreGlyph s
  | .openJob => Sys2Proof.Machine.execOpenJob s
  | .place => Sys2Proof.Machine.execPlace s
  | .withdraw => Sys2Proof.Machine.execWithdraw s
  | .commit => Sys2Proof.Machine.execCommit s
  | .closeJob => Sys2Proof.Machine.execCloseJob s
  | .abortJob => Sys2Proof.Machine.execAbortJob s
  | .queryJob => Sys2Proof.Machine.execQueryJob s
  | .loadSegment => Sys2Proof.Machine.execLoadSegment s
  | .stopUpload => Sys2Proof.Machine.execStopUpload s
  | .proof => Sys2Proof.Machine.execProof s
  | .unknownCommand code => Sys2Proof.Machine.execUnknownCommand code s
  | .cmdWriteRefused code => Sys2Proof.Machine.execCmdWriteRefused code s
  | .proofCopyComplete => Sys2Proof.Machine.execProofCopyComplete s
  | .paramWrite value => Sys2Proof.Machine.execParamWrite value s
  | .answerRead => Sys2Proof.Machine.execAnswerRead s
  | .dataWrite value => Sys2Proof.Machine.execDataWrite value s
  | .dataRead => Sys2Proof.Machine.execDataRead s
  | .reportRead => Sys2Proof.Machine.execReportRead s
  | .irqPendWrite value => Sys2Proof.Machine.execIrqPendWrite value s
  | .irqEnWrite value => Sys2Proof.Machine.execIrqEnWrite value s
  | .rowDoneLowRead => Sys2Proof.Machine.execRowDoneLowRead s
  | .stickyWrite value => Sys2Proof.Machine.execStickyWrite value s
  | .registerWriteDiscarded offset value => Sys2Proof.Machine.execRegisterWriteDiscarded offset value s
  | .resetAsserted => Sys2Proof.Machine.execResetAsserted s
  | .resetReleased => Sys2Proof.Machine.execResetReleased s
  | .powerOnClearComplete => Sys2Proof.Machine.execPowerOnClearComplete s
  | .lineStep => Sys2Proof.Machine.execLineStep s
  | .hotChange asserted => Sys2Proof.Machine.execHotChange asserted s
  | .paperChange present => Sys2Proof.Machine.execPaperChange present s
  | .lineFetchEnd => Sys2Proof.Machine.execLineFetchEnd s
  | .shiftEnd => Sys2Proof.Machine.execShiftEnd s
  | .strobePulseEnd => Sys2Proof.Machine.execStrobePulseEnd s
  | .hotHoldExpire => Sys2Proof.Machine.execHotHoldExpire s
  | .bandComplete => Sys2Proof.Machine.execBandComplete s
  | .uploadStore => Sys2Proof.Machine.execUploadStore s
  | .uploadPrefetch => Sys2Proof.Machine.execUploadPrefetch s

end Sys2Proof.Machine
end

