-- ==== Sys2Proof/Machine/Tick.lean ====
section
/-! DEFINITION. One internal step of the part, taken when no row waits (log entry 5): a reading of a glyph descriptor, which
takes no time, or one period of CLKIN (R90, R92, R109, R118, R128, R130). -/

namespace Sys2Proof.Machine

/-- One period less of the shift, the pulse or the hot hold; at its end the event of that end (R109, R110, R120). -/
def timers (s : State) : State :=
  match s.head.mode with
  | .inFlight (.shift p n) line =>
    if n ≤ 1 then endShift s else s.withMode (.inFlight (.shift p (n - 1)) line)
  | .inFlight (.strobe p n) line =>
    if n ≤ 1 then endPulse s else s.withMode (.inFlight (.strobe p (n - 1)) line)
  | .inFlight (.hold p n) line =>
    if n ≤ 1 then expireHold s else s.withMode (.inFlight (.hold p (n - 1)) line)
  | _ => s

/-- The power-on clear ends when its last byte has been written (R133). -/
def dueClear (s : State) : State :=
  match s.phase with
  | .clearing a => if Config.memSize ≤ a then endClear a s else s
  | _ => s

/-- The fetch ends when its last byte has been read (R108). -/
def dueFetch (s : State) : State :=
  match s.head.mode with
  | .inFlight .fetch line => if s.headCfg.lineBytes ≤ line.bytes.length then endFetch s else s
  | _ => s

/-- The band completes when its last entry has been drawn (R96). -/
def dueBand (s : State) : State := if s.composed then finishBand s else s

/-- The PROOF copy completes when its last byte has been read (R74). -/
def dueProof (s : State) : State :=
  match s.port.proof with
  | some c => if s.headCfg.lineBytes ≤ c.copied.length then endProof s else s
  | none => s

/-- The ends that the last access brings about (log entry 13). -/
def due (s : State) : State := dueProof (dueBand (dueFetch (dueClear s)))

/-- The next access is granted as the last one is performed; a renderer at a reading takes its readings first (R90, R130). -/
def regrant (s : State) : State := if s.atReading then s else grant s

/-- The internal step (log entry 5). While RESET is asserted nothing happens (R132). It is the one place where the arbiter
grants: a row grants nothing, so an operation that a row ends has its request withdrawn if the request was raised since the
last internal step (R129 allows either order; the model's choice, log entry 25). -/
def tick (s : State) : Result :=
  if s.phase = .held then .next s
  else if s.atReading then .next (regrant (due (takeReading s)))
  else
    let t := grant (timers s)
    if t.accessInside then .next (regrant (due (perform t))) else .fault .addressOutsideMemory

end Sys2Proof.Machine
end

