-- ==== Sys2Proof/Machine/Step.lean ====
section
/-! DEFINITION. One step of the block: the row at the front of the queue, or an internal step when none waits. -/

namespace Sys2Proof.Machine

/-- The row at the front of the queue is taken and carried out on the state with the queue's rest; with the queue empty the
part takes one internal step (log entries 5 and 16). -/
def step (s : State) : Host.Outcome State Fault Refusal :=
  match s.pending with
  | [] => tick s
  | i :: rest => exec i { s with pending := rest }

/-- The state with the row that a word spells put at the front of the queue; no word spells one. -/
def State.withFetchWord (s : State) (nbits w : Nat) : State :=
  match decodeTableWord nbits w with
  | some i => { s with pending := i :: s.pending }
  | none => s

end Sys2Proof.Machine
end

