-- ==== Sys2Proof/WellFormed.lean ====
section
/-! DEFINITION. Which operands a row of the table admits. -/

namespace Sys2Proof

/-- The offsets whose writes the window table marks Discarded (R161). -/
def discardedOffsets : List (BitVec 4) := [0x0, 0x1, 0x4, 0x6, 0x9, 0xA, 0xB, 0xC, 0xD, 0xE]

/-- A row is well formed when its operands are those the row speaks of: UNKNOWN_COMMAND carries a code that names no
command (R167), REGISTER_WRITE_DISCARDED an offset marked Discarded (R161). Every other row admits every operand. -/
def Instr.wf : Instr → Bool
  | .unknownCommand code => !Config.commandCodes.contains code
  | .registerWriteDiscarded offset _ => discardedOffsets.contains offset
  | _ => true

end Sys2Proof
end

