-- ==== Sys2Proof/Safety.lean ====
section
/-! DEFINITION. What a lawful state is, and the terms in which claims speak of commands, of the head's pulses and of the
dots a band must hold. -/

namespace Sys2Proof.Machine

/-! ### Terms of the claims about commands -/

/-- Byte i of the parameters, as a number. -/
abbrev paramByte (ps : List Byte) (i : Nat) : Nat := (ps.getD i 0x00).toNat

/-- The two-byte field at byte i of the parameters, low byte first (chapter 11). -/
abbrev paramWord (ps : List Byte) (i : Nat) : Nat := paramByte ps i + 256 * paramByte ps (i + 1)

/-- The port takes a command: READY is 1 and CMD_BUSY is 0 (R164). -/
abbrev State.admits (s : State) : Prop := s.phase = .ready ∧ s.port.busy = false

/-- The state with what the take and the completion of a command do to the command port and to DONE, and nothing else
changed (R164, R166). -/
def State.answered (s : State) (code : Byte) (r : ResultCode) (answer : List Byte) : State :=
  { s with
    port := { s.port with
      params := [], answer := answer, answerPos := 0, result := r, cmd := code, busy := false }
    irq := { s.irq with done := true } }

/-- The rows that are a CMD write of a command's own code, with the code (R178). -/
def commandRows : List (Instr × Byte) :=
  [(.softReset, 0xA5), (.setHead, 0x10), (.setBands, 0x11), (.defineGlyph, 0x20), (.restoreGlyph, 0x21),
   (.openJob, 0x30), (.commit, 0x31), (.closeJob, 0x32), (.abortJob, 0x33), (.queryJob, 0x34), (.place, 0x40),
   (.withdraw, 0x41), (.loadSegment, 0x50), (.stopUpload, 0x51), (.proof, 0x60)]

/-- No access is in progress at the arbiter. -/
abbrev State.quiet (s : State) : Prop := s.arbiter.inProgress = none

/-- A segment's span overlaps the band zone (R60, R137). -/
abbrev State.segmentOverZone (s : State) (g : Segment) : Prop :=
  g.address < s.ring.base + s.ring.n * (s.headCfg.dots / 8) * s.ring.h ∧
    s.ring.base < g.address + (g.rows - 1) * g.stride + g.rowBytes

/-- A band holds a row of a job for PROOF (R73): it is READY and the row is at or after the done row, or it is PRINTING and
the row has not been fetched (R69). -/
abbrev State.rowHeld (s : State) (j : Job) (row : Nat) (b : Band) : Prop :=
  b.job = j.tag ∧ b.first ≤ row ∧ row < b.first + b.count ∧
    ((b.state = .ready ∧ j.done ≤ row) ∨ (b.state = .printing ∧ s.notFetched j row = true))

/-- The fields common to the three kinds of PLACE that check 3 refuses (R35): unused bits of the op-and-flags byte, a left
above 1023, a repeat count of 1, or with a repeat part a pitch of 0 or above 4096. -/
def placeCommonBad (ps : List Byte) : Prop :=
  ps.getD 1 0x00 &&& 0xCC ≠ 0x00 ∨ 1023 < paramWord ps 4 ∨ paramByte ps 6 = 1 ∨
    (2 ≤ paramByte ps 6 ∧ (paramWord ps 7 = 0 ∨ 4096 < paramWord ps 7))

/-- The record that PLACE accepts (R27, R32), from the common part, the kind with its part, and the extent. -/
def placedRecord (ps : List Byte) (j : Job) (handle : Nat) (kind : PlaceKind) (w h : Nat) : Placement where
  handle := handle
  job := j.tag
  kind := kind
  op := (match paramByte ps 1 % 4 with | 0 => .setOr | 1 => .xor | 2 => .clear | _ => .replace)
  inverse := decide (paramByte ps 1 / 16 % 2 = 1)
  notify := decide (paramByte ps 1 / 32 % 2 = 1)
  top := paramWord ps 2
  left := paramWord ps 4
  width := w
  height := h
  repetition := if paramByte ps 6 = 0 then none else some ⟨paramByte ps 6, paramWord ps 7⟩
  active := false
  lastRow := min (paramWord ps 2 +
    (if paramByte ps 6 = 0 then 0 else (paramByte ps 6 - 1) * paramWord ps 7) + h - 1) (j.length - 1)

/-- PLACE accepted (R37): the lowest FREE slot takes the record at the tail of the placement list, and the answer holds the
handle, the extent and the last row; with no slot FREE it is refused with TABLE_FULL. -/
def placed (s : State) (j : Job) (kind : PlaceKind) (w h : Nat) : State :=
  match (List.range 64).find? fun i => !(s.placements.any fun p => decide (p.handle = i)) with
  | none => s.answered 0x40 .tableFull []
  | some i =>
    let p := placedRecord s.port.params j i kind w h
    ({ s with placements := s.placements ++ [p] } : State).answered 0x40 .ok
      [BitVec.ofNat 8 i, BitVec.ofNat 8 w, BitVec.ofNat 8 (w / 256), BitVec.ofNat 8 h, BitVec.ofNat 8 (h / 256),
        BitVec.ofNat 8 p.lastRow, BitVec.ofNat 8 (p.lastRow / 256)]

/-- What so many reads of REPORT return, and the state after them (R154). -/
def readReports : Nat → State → List Byte × State
  | 0, s => ([], s)
  | n + 1, s =>
    match exec .reportRead s with
    | .next t => (t.dataOut :: (readReports n t).1, (readReports n t).2)
    | _ => ([], s)

/-! ### Ring order (R66, R70) -/

/-- The index of the band so many places back from the claim index: place 0 is the band claimed last (R65, R66). -/
def Ring.back (r : Ring) (d : Nat) : Nat := (r.claim + r.n - 1 - d) % r.n

/-- Where the freeing of bands by an abort or a completion leaves the claim index (R70): one after the newest band still
non-FREE, wrapping from N - 1 to 0, or where it stood with every band FREE. -/
def Ring.claimSetBack (before after : Ring) : Prop :=
  ((∀ d < before.n, after.bandAt (before.back d) = none) → after.claim = before.claim) ∧
  ∀ d < before.n, (after.bandAt (before.back d)).isSome = true →
    (∀ e < d, after.bandAt (before.back e) = none) → after.claim = (before.back d + 1) % before.n

/-- What the bands are after those of a job have been freed, its PRINTING one too unless it is kept (R18, R19). -/
def Ring.bandsFreed (r : Ring) (tag : Byte) (keepPrinting : Bool) : List (Option Band) :=
  r.bands.map fun b => b.filter fun b => decide (b.job ≠ tag ∨ (keepPrinting = true ∧ b.state = .printing))

/-- The next row of a job is ready (R103): a trailing row, or a row that a READY or PRINTING band of the job holds. -/
def State.rowReady (s : State) (j : Job) : Prop :=
  j.length ≤ j.done ∨ ∃ (i : Nat) (b : Band), s.ring.bandAt i = some b ∧ b.job = j.tag ∧
    (b.state = .ready ∨ b.state = .printing) ∧ b.first ≤ j.done ∧ j.done < b.first + b.count

/-! ### The rotation (R127, R128, R131) -/

/-- How many rotating clients stand before a client in the order that a rotation position gives: renderer, upload channel,
command port, going around, starting with the one after the position (R127, R128). -/
def Rotating.ahead (position k : Rotating) : Nat :=
  (match position with
    | .renderer => [Rotating.upload, .port, .renderer]
    | .upload => [Rotating.port, .renderer, .upload]
    | .port => [Rotating.renderer, .upload, .port]).idxOf k

/-! ### The strobe pulse in progress (R110) -/

/-- The pass and the group of the strobe pulse in progress. -/
def State.pulse (s : State) : Option (Pass × Nat) :=
  match s.head.mode with
  | .inFlight (.strobe p _) line => some (p, line.group)
  | _ => none

/-- The phase and the line of the line in flight, if there is one (R101, R102). -/
def HeadMode.flight : HeadMode → Option (LinePhase × Line)
  | .inFlight phase line => some (phase, line)
  | _ => none

/-- The work of a renderer in RENDERING (R76). -/
def Renderer.work : Renderer → Option Work
  | .rendering w => some w
  | _ => none

/-- The phase is a strobe pulse. -/
def LinePhase.isStrobe : LinePhase → Bool
  | .strobe _ _ => true
  | _ => false

/-- The CLKIN periods that a phase of the line has left, if it is a shift, a pulse or a hot hold. -/
def LinePhase.periods : LinePhase → Option Nat
  | .fetch => none
  | .shift _ n => some n
  | .strobe _ n => some n
  | .hold _ n => some n

/-- The phase with another count of periods left. -/
def LinePhase.withPeriods (n : Nat) : LinePhase → LinePhase
  | .fetch => .fetch
  | .shift p _ => .shift p n
  | .strobe p _ => .strobe p n
  | .hold p _ => .hold p n

/-- The row of the end of a phase, performed (R108, R109, R110, R120). -/
def LinePhase.endRow : LinePhase → Instr
  | .fetch => .lineFetchEnd
  | .shift _ _ => .shiftEnd
  | .strobe _ _ => .strobePulseEnd
  | .hold _ _ => .hotHoldExpire

/-- The most periods a phase lasts: a shift 4 × (D + 1), a pulse the time of its pass, a hot hold its limit (R109, R110,
R118). -/
def LinePhase.most (c : HeadConfig) : LinePhase → Nat
  | .fetch => 0
  | .shift _ _ => 4 * (c.dots + 1)
  | .strobe .pre _ => c.preheat * c.timeBase
  | .strobe .main _ => c.main * c.timeBase
  | .hold _ _ => c.hold * 1000 * c.timeBase

/-! ### Laws that stand alone -/

/-- The report queue (R151): at most 16 records, a read position of 0 to 7, and 0 with the queue empty. -/
abbrev ReportQueue.lawful (q : ReportQueue) : Prop :=
  q.records.length ≤ 16 ∧ q.readPos ≤ 7 ∧ (q.records = [] → q.readPos = 0)

/-- The head configuration is one that SET_HEAD takes (R99, R100). -/
abbrev HeadConfig.lawful (c : HeadConfig) : Prop :=
  12 ≤ c.timeBase ∧ c.timeBase ≤ 24 ∧ 64 ≤ c.dots ∧ c.dots ≤ 1024 ∧ c.groups ∈ [1, 2, 4, 8] ∧
    c.dots % (8 * c.groups) = 0 ∧ 1 ≤ c.main ∧ c.preheat + c.main ≤ 2500 ∧ 1 ≤ c.hold

/-- The band configuration is one that SET_BANDS takes, the zone lies inside memory, there is a record for each band, and
the claim index names a band (R60, R62, R64, R65). -/
abbrev State.zoneLawful (s : State) : Prop :=
  s.ring.base % 16 = 0 ∧ s.ring.h ∈ [8, 16, 32, 64] ∧ 2 ≤ s.ring.n ∧ s.ring.n ≤ 8 ∧
    s.ring.base + s.ring.n * (s.headCfg.dots / 8) * s.ring.h ≤ 65536 ∧
    s.ring.bands.length = s.ring.n ∧ s.ring.claim < s.ring.n

/-- Both configurations are lawful (R60, R99). -/
abbrev State.configLawful (s : State) : Prop := s.headCfg.lawful ∧ s.zoneLawful

/-- The loaded segments: the record's ranges, and a span inside memory (R137, R138). -/
abbrev Segment.lawful (g : Segment) : Prop :=
  1 ≤ g.rowBytes ∧ g.rowBytes ≤ 256 ∧ 1 ≤ g.rows ∧ g.rows ≤ 4096 ∧ g.rowBytes ≤ g.stride ∧ g.stride ≤ 4096 ∧
    g.position < g.rowBytes ∧ 1 ≤ g.bytesLeft ∧ g.bytesLeft ≤ g.rows * g.rowBytes ∧
    g.address + (g.rows - 1) * g.stride + g.rowBytes ≤ 65536

/-- The cursor stands at byte m of the segment, counted in row order from its address: while m is below the total it lies
in the segment's span (R137, R141). -/
abbrev Segment.cursorAt (g : Segment) (m : Nat) : Prop :=
  g.position = m % g.rowBytes ∧ g.cursor = g.address + m / g.rowBytes * g.stride + m % g.rowBytes

/-- The upload channel (R136, R137, R140, R141, R142): the next slot is occupied only beside the current one, the FIFO holds
at most 8 bytes and none beyond what the current segment still moves, and the cursor stands at the next byte to store or to
prefetch. An access of the channel in progress is a store of a byte the FIFO holds or a prefetch the FIFO has room for. -/
abbrev State.uploadLawful (s : State) : Prop :=
  (∀ g ∈ s.upload.cur, g.lawful ∧ s.upload.fifo.length ≤ g.bytesLeft ∧
    g.cursorAt (g.rows * g.rowBytes - g.bytesLeft + if g.direction = .dirOut then s.upload.fifo.length else 0)) ∧
  (∀ g ∈ s.upload.nxt, g.lawful ∧ g.cursorAt 0 ∧ g.bytesLeft = g.rows * g.rowBytes) ∧
  (s.upload.cur = none → s.upload.nxt = none ∧ s.upload.fifo = []) ∧
  s.upload.fifo.length ≤ 8 ∧
  (∀ a ∈ s.arbiter.inProgress, a.live = true → a.client = .rotating .upload →
    (uploadRequest s).isSome = true)

/-- While a job is present no loaded segment overlaps the band zone (R136, R150). -/
abbrev State.zoneGuarded (s : State) : Prop :=
  s.jobs.isEmpty = false → s.slotOverZone s.upload.cur = false ∧ s.slotOverZone s.upload.nxt = false

/-- The buffers of the command port (R163, R169) and CMD_BUSY: a command stays busy from one event to the next only while
its PROOF copy goes on (R74). On the part every command is busy for up to 20 microseconds (R166, R171): that the model takes
and completes it in one step is log entry 6. -/
abbrev State.portLawful (s : State) : Prop :=
  s.port.params.length ≤ 48 ∧ s.port.answerPos ≤ s.port.answer.length ∧
    (s.phase = .ready → s.port.busy = s.port.proof.isSome) ∧
    (s.phase ≠ .ready → s.port.busy = false ∧ s.port.proof = none)

/-- The glyph store holds one RAM descriptor for a code at most, sorted by code, each with the ranges of R47. -/
abbrev State.glyphsLawful (s : State) : Prop :=
  (s.glyphs.Pairwise fun e f => e.code.toNat < f.code.toNat) ∧
  ∀ e ∈ s.glyphs, 1 ≤ e.glyph.width ∧ e.glyph.width ≤ 32 ∧ 1 ≤ e.glyph.height ∧ e.glyph.height ≤ 64 ∧
    1 ≤ e.glyph.advance ∧ e.glyph.advance ≤ 40 ∧ e.glyph.base + e.glyph.footprint ≤ 65536

/-! ### The law of the job table (R1, R2, R3) -/

/-- The record of a job: the ranges of R2 and the bounds of R3. A job whose done row reached its total has left. -/
abbrev Job.lawful (j : Job) : Prop :=
  1 ≤ j.length ∧ j.length ≤ 65535 ∧ j.trailing ≤ 4095 ∧ j.commitRow ≤ j.length ∧ j.rendered ≤ j.length ∧
    j.done < j.length + j.trailing ∧ j.blankRows ≤ j.done ∧ (j.state = .closed → j.commitRow = j.length)

/-- The band the renderer composes belongs to a job present that is not ABORTING, starts at its rendered row, and, if the
job is OPEN, ends at or below its commit row (R79, R80, R94). -/
abbrev State.workLawful (s : State) : Prop :=
  ∀ w ∈ s.renderer.work, ∃ j ∈ s.jobs.find w.job,
    j.isAborting = false ∧ w.first = j.rendered ∧ j.rendered < j.length ∧
      w.count = min s.ring.h (j.length - j.rendered) ∧ (j.state = .opened → w.first + w.count ≤ j.commitRow)

/-- The job table (R1, R3): at most one OPEN job, the front one not OPEN when two are present, distinct tags, a back job that
is not ABORTING and has consumed nothing, and an ABORTING job only while a line is in flight. -/
abbrev State.jobsLawful (s : State) : Prop :=
  (s.jobs.front = none → s.jobs.back = none) ∧
  (∀ j ∈ s.jobs.front, j.lawful ∧ (j.isAborting = true → s.head.lineInFlight = true)) ∧
  (∀ k ∈ s.jobs.back, k.lawful ∧ k.isAborting = false ∧ k.done = 0 ∧ k.blankRows = 0 ∧
    ∀ j ∈ s.jobs.front, j.tag ≠ k.tag ∧ j.state ≠ .opened) ∧
  s.workLawful

/-! ### The law of the label in work: placements, bands, renderer, head -/

/-- A run has at least one code (R33). -/
def Placement.hasCodes (p : Placement) : Bool :=
  match p.kind with
  | .glyphs _ codes => !codes.isEmpty
  | _ => true

/-- The source footprint of an IMAGE lies inside memory (R30, R34). -/
def Placement.sourceInside (p : Placement) : Bool :=
  match p.kind with
  | .image source stride => decide (source + (p.height - 1) * stride + ceil8 p.width ≤ 65536)
  | _ => true

/-- The placement table (R23, R24, R25): distinct handles below 64, an extent of at least one dot, a source inside memory,
each placement of a job present that is not ABORTING, with its top below the job's length and its last row the one of R32. -/
abbrev State.placementsLawful (s : State) : Prop :=
  (s.placements.Pairwise fun p q => p.handle ≠ q.handle) ∧
  ∀ p ∈ s.placements, p.handle < 64 ∧ 1 ≤ p.width ∧ 1 ≤ p.height ∧ p.hasCodes = true ∧ p.sourceInside = true ∧
    ∃ j ∈ s.jobs.find p.job, j.isAborting = false ∧ p.top < j.length ∧
      p.lastRow = lastRowOf p.top p.height j.length p.repetition

/-- The record of band i (R64, R66, R67, R69): of a job present, at most H rows; a RENDERING band is the renderer's;
a READY or PRINTING band holds rows below the rendered row, some still to consume; a PRINTING band is the front job's and
holds its next row. -/
abbrev State.bandLawful (s : State) (i : Nat) (b : Band) : Prop :=
  1 ≤ b.count ∧ b.count ≤ s.ring.h ∧ ∃ j ∈ s.jobs.find b.job,
    (b.state = .rendering → j.isAborting = false ∧
      ∃ w ∈ s.renderer.work, w.band = i ∧ w.job = b.job ∧ w.first = b.first ∧ w.count = b.count) ∧
    (b.state ≠ .rendering → b.first + b.count ≤ j.rendered ∧ j.done < b.first + b.count) ∧
    (b.state = .ready → j.isAborting = false) ∧
    (b.state = .printing → s.jobs.isFront b.job = true ∧ b.first ≤ j.done)

/-- The ring (R64): each record lawful, and no row in two bands. -/
abbrev State.ringLawful (s : State) : Prop :=
  (∀ i < s.ring.bands.length, ∀ b ∈ s.ring.bandAt i, s.bandLawful i b) ∧
  (∀ i < s.ring.bands.length, ∀ k < i, ∀ b ∈ s.ring.bandAt i, ∀ c ∈ s.ring.bandAt k,
    b.job = c.job → b.first + b.count ≤ c.first ∨ c.first + c.count ≤ b.first) ∧
  (∀ w ∈ s.renderer.work, ∃ b ∈ s.ring.bandAt w.band, b.state = .rendering)

/-- A band b further back than place e of the run (R66): the band at place e is not FREE, unless b is the PRINTING band of an
ABORTING front job, which may stand ahead of the run with freed bands between (R70); and b holds rows before those of the band
at place e, of the same job or of the front job. -/
abbrev State.olderThan (s : State) (b : Band) (e : Nat) : Prop :=
  ((s.ring.bandAt (s.ring.back e)).isSome = true ∨
    (b.state = .printing ∧ ∃ j ∈ s.jobs.front, j.tag = b.job ∧ j.isAborting = true)) ∧
  ∀ c ∈ s.ring.bandAt (s.ring.back e),
    (b.job = c.job → b.first + b.count ≤ c.first) ∧ (b.job ≠ c.job → s.jobs.isFront b.job = true)

/-- A job has rows rendered, or a band of the ring. -/
abbrev State.hasBegun (s : State) (j : Job) : Prop :=
  0 < j.rendered ∨ (s.ring.bands.any fun b => b.any fun b => decide (b.job = j.tag)) = true

/-- Ring order (R66): going back from the claim index the non-FREE bands form one unbroken run, newest first, and hold the
rows of the front job and then those of the back job, each in increasing order. The back job has bands, or rows rendered, only
once the front job has no row left to render (R79). -/
abbrev State.runLawful (s : State) : Prop :=
  (∀ d < s.ring.n, ∀ e < d, ∀ b ∈ s.ring.bandAt (s.ring.back d), s.olderThan b e) ∧
  ∀ k ∈ s.jobs.back, s.hasBegun k → ∀ j ∈ s.jobs.front, j.isAborting = true ∨ j.rendered = j.length

/-- The head channel (R102, R103, R107): with no line in flight it is where a settle puts it; the line in flight is the
front job's next row, held in a PRINTING band; an ending line is strobing for an ABORTING job; an access of the fetch in
progress reads a byte of the line still to fetch. -/
abbrev State.headLawful (s : State) : Prop :=
  (s.head.mode.flight = none → s.head.mode = s.settledMode) ∧
  (∀ x ∈ s.head.mode.flight,
    (∃ j ∈ s.jobs.front, x.2.job = j.tag ∧ x.2.row = j.done ∧ x.2.row < j.length ∧
      (x.2.ending = true → j.isAborting = true)) ∧
    (∃ b ∈ s.ring.bandAt x.2.band, b.state = .printing ∧ x.2.addr = s.lineAddr x.2.band b.first x.2.row) ∧
    (if x.1 = .fetch then x.2.bytes.length ≤ s.headCfg.dots / 8 else x.2.bytes.length = s.headCfg.dots / 8) ∧
    (x.1.isStrobe = false → x.2.ending = false)) ∧
  (∀ a ∈ s.arbiter.inProgress, a.live = true → a.client = .fetch → (fetchRequest s).isSome = true)

/-- The history line holds W bytes (R101). -/
abbrev State.historyLawful (s : State) : Prop := s.head.history.length = s.headCfg.dots / 8

/-- The renderer rests where a look leaves it: outside RENDERING a look would change nothing (R78). -/
abbrev State.lookSettled (s : State) : Prop := s.renderer.work = none → look s = s

/-! ### The renderer's place in its band (R76) -/

/-- How many codes a placement's run has (R27). -/
def Placement.codeCount (p : Placement) : Nat :=
  match p.kind with
  | .glyphs _ codes => codes.length
  | _ => 0

/-- The cursor stands where the renderer's own progress can leave it: the bytes still to clear are some of the band's, the
readings taken are fewer than the codes, the row reached is one of the drawn part's and the byte reached one the row touches. -/
def Work.cursorInRange (w : Work) (s : State) : Prop :=
  match w.cursor with
  | .clearing n => 1 ≤ n ∧ n ≤ w.lineBytes s
  | .reading laid => ∃ x ∈ w.current s.placements, laid.length < x.2.codeCount
  | .drawing laid row src col _ => ∃ x ∈ w.current s.placements,
      w.firstRow x.2 x.1.copy ≤ row ∧ row < w.endRow x.2 x.1.copy ∧ col < x.2.byteCount (x.2.limit s.headCfg.dots) ∧
      src.length ≤ (x.2.sources laid (x.2.limit s.headCfg.dots) (row - x.2.copyTop x.1.copy)).length
  | .finished => True

/-- The renderer's work stands where its own progress can leave it (R76, R86): each copy still to draw has a row and a column
in the band, and the cursor is in range. -/
def Work.inRange (w : Work) (s : State) : Prop :=
  (∀ c ∈ w.todo, ∃ p ∈ findPlacement s.placements c.handle, w.firstRow p c.copy < w.endRow p c.copy ∧
    0 < p.byteCount (p.limit s.headCfg.dots) ∧ p.hasCodes = true) ∧
  w.cursorInRange s

/-- The renderer's work (R76, R84): in range, the readings it holds inside memory, and the copies still to draw of ACTIVE
placements of the band's job. -/
def State.composeLawful (s : State) : Prop :=
  ∀ w ∈ s.renderer.work, w.inRange s ∧ w.cursor.inside = true ∧
    ∀ c ∈ w.todo, ∃ p ∈ findPlacement s.placements c.handle, p.active = true ∧ p.job = w.job

/-! ### The whole law -/

/-- The line of a PROOF copy in progress lies inside memory (R74, R124). -/
abbrev State.proofLawful (s : State) : Prop := ∀ c ∈ s.port.proof, c.addr + s.headCfg.dots / 8 ≤ 65536

/-- The whole law of the label in work. -/
structure State.labelLawful (s : State) : Prop where
  config : s.configLawful
  port : s.portLawful
  glyphs : s.glyphsLawful
  jobs : s.jobsLawful
  placements : s.placementsLawful
  ring : s.ringLawful
  run : s.runLawful
  head : s.headLawful
  history : s.historyLawful
  looked : s.lookSettled
  composed : s.composeLawful
  proof : s.proofLawful

/-- The access in progress at the arbiter lies inside memory (R124, R127). -/
abbrev State.accessLawful (s : State) : Prop := ∀ a ∈ s.arbiter.inProgress, a.addr < 65536

/-! ### What a band must hold (R28 to R31, R86 to R90) -/

/-- Dot c of the row whose bytes start at an address, leftmost dot the most significant bit of the first byte (R125). -/
def memDot (m : Memory) (a c : Nat) : Bool := (Memory.read m (a + c / 8)).getMsbD (c % 8)

/-- The source dot of a laid glyph at a column and a row counted from the copy's top (R48, R50, R90). -/
def glyphDot (m : Memory) (l : Laid) (row c : Nat) : Bool :=
  if l.x ≤ c ∧ c < l.x + l.desc.width ∧ row < l.desc.height then
    match l.desc with
    | .undefined => false
    | .rom => romDot l.code row (c - l.x)
    | .ram g => memDot m (g.base + row * ceil8 g.width) (c - l.x)
  else false

/-- The glyphs of a run, each laid where the advances and the spacing before it end, from the descriptors as they stand
(R56, R90). -/
def layRun (s : State) (spacing : Nat) : Nat → List Byte → List Laid
  | _, [] => []
  | x, code :: rest =>
    ⟨code, x, s.glyph code⟩ :: layRun s spacing (x + (s.glyph code).advance + spacing) rest

/-- The source dot of a copy at a column and a row counted from the copy's top, before any inversion (R29, R30, R31). -/
def sourceDot (s : State) (m : Memory) (p : Placement) (row c : Nat) : Bool :=
  match p.kind with
  | .bar => true
  | .image source stride => memDot m (source + row * stride) (c - p.left)
  | .glyphs spacing codes => (layRun s spacing p.left codes).any fun l => glyphDot m l row c

/-- The dot after one copy of a placement has been drawn at a job row and a column where the band held a dot (R28, R87). -/
def drawDot (s : State) (m : Memory) (row c : Nat) (p : Placement) (k : Nat) (band : Bool) : Bool :=
  if p.copyTop k ≤ row ∧ row < p.copyTop k + p.height ∧ p.left ≤ c ∧ c < p.left + p.width then
    combineDot p.op band (xor p.inverse (sourceDot s m p (row - p.copyTop k) c))
  else band

/-- The dot of a label at a row and a column: the placements of the job, in placement-list order and copy by copy, drawn
over a cleared band (R85, R86). -/
def labelDot (s : State) (m : Memory) (tag : Byte) (row c : Nat) : Bool :=
  (s.placements.filter fun p => decide (p.job = tag)).foldl
    (fun d p => (List.range p.copies).foldl (fun d k => drawDot s m row c p k d) d) false

/-- What a placement reads lies outside the addresses from lo up to hi, hi left out (R30, R50, R58). -/
def sourcesOutside (s : State) (lo hi : Nat) (p : Placement) : Prop :=
  match p.kind with
  | .bar => True
  | .image source stride => source + (p.height - 1) * stride + ceil8 p.width ≤ lo ∨ hi ≤ source
  | .glyphs _ codes => ∀ code ∈ codes, ∀ g, s.glyph code = .ram g → g.base + g.footprint ≤ lo ∨ hi ≤ g.base

end Sys2Proof.Machine
end

