-- ==== Sys2Proof/Certificates/Slice0/Obligations.lean ====
section
/-! DEFINITION. The statements for the provers, from the numbered rules of the manual. -/

open Sys2Proof Sys2Proof.Machine

/-! ### The queue -/

/-- One step with a row waiting is that row, carried out on the state with the queue's rest (the model's queue, log entry
16). -/
def Obligations.StepRunsTheFrontRow : Prop :=
  ∀ (c : Instr) (rest : List Instr) (s : State), s.pending = c :: rest →
    step s = exec c { s with pending := rest }

/-- No row reads its way into the queue: every row leaves the rows that wait behind it as they are (log entry 16). -/
def Obligations.RowsLeaveTheQueue : Prop :=
  ∀ (c : Instr) (s t : State), exec c s = .next t → t.pending = s.pending

/-! ### The command port (chapter 10) -/

/-- R168: a command refused by its block changes RESULT, the parameter buffer, CMD_BUSY, DONE and the value read at offset 2,
leaves the answer empty, and changes nothing else of the part. -/
def Obligations.RefusedCommandChangesOnlyThePort : Prop :=
  ∀ row ∈ commandRows, ∀ s t : State, s.admits → exec row.1 s = .next t →
    t.port.result ≠ .ok → t.port.busy = false → t = s.answered row.2 t.port.result []

/-- R165: a CMD write offered while READY is 0 or a command is busy sets CMD_REFUSED and changes nothing else; SOFT_RESET is
excepted while READY is 1. A row offered outside the condition in its name is the physical write of its code, the model's
choice (log entry 9). -/
def Obligations.BusyOrUnreadyPortRefuses : Prop :=
  ∀ s : State, ((∃ a, s.phase = .clearing a) ∨ (s.phase = .ready ∧ s.port.busy = true)) →
    let refusedState : State :=
      { s with port := { s.port with sticky := { s.port.sticky with cmdRefused := true } } }
    (∀ row ∈ commandRows, (row.1 = .softReset → s.phase ≠ .ready) → exec row.1 s = .next refusedState) ∧
    ∀ code : Byte, (code = 0xA5 → s.phase ≠ .ready) →
      exec (.cmdWriteRefused code) s = .next refusedState ∧ exec (.unknownCommand code) s = .next refusedState

/-- R167: a code that names no command is taken, completes at once with UNKNOWN_COMMAND and an empty answer, sets DONE,
consumes its parameters and is read at offset 2. -/
def Obligations.UnknownCodeCompletesAtOnce : Prop :=
  ∀ (code : Byte) (s : State), code ∉ Config.commandCodes → s.admits →
    exec (.unknownCommand code) s = .next (s.answered code .unknownCommand [])

/-- R163 and R169: a PARAM write joins the tail of a buffer of fewer than 48 bytes or spills, whatever busy and READY are; an
ANSWER read returns the byte at the position and moves on, or returns 00h past the last byte. -/
def Obligations.ParamAndAnswerBuffers : Prop :=
  ∀ s : State, s.phase ≠ .held →
    (∀ v : Byte, exec (.paramWrite v) s = .next
      (if s.port.params.length < 48 then
        { s with port := { s.port with params := s.port.params ++ [v] } }
      else { s with port := { s.port with sticky := { s.port.sticky with paramSpill := true } } })) ∧
    exec .answerRead s = .next
      (match s.port.answer[s.port.answerPos]? with
      | some b => { s with dataOut := b, port := { s.port with answerPos := s.port.answerPos + 1 } }
      | none => { s with dataOut := 0x00 })

/-- R156, R159, R172, R161: a write of 1 clears a latched source or a sticky flag and a write of 0 leaves it; an IRQ_EN write
sets the four enables; a write to an offset marked Discarded changes nothing. Bit places of R177. And what the window's registers
read (R161, R174, R177; offset 0 stands in RowDoneReadsWithoutTearing): RESULT and CMD (codes of R178), the pending sources and the
enables, HEAD_STATE, JOB_STATE and UPLOAD_STATE, the capture at offset D, PARAM_COUNT (the count, less multiples of 256 beyond the
48 of R163) and STICKY, unused bits 0; and a read that is a row returns what the register shows. -/
def Obligations.FlagWritesAndDiscardedWrites : Prop :=
  (∀ (s : State) (v : Byte), s.phase ≠ .held →
    exec (.irqPendWrite v) s = .next { s with irq := { s.irq with
      input := if v.getLsbD 2 then false else s.irq.input
      done := if v.getLsbD 3 then false else s.irq.done } } ∧
    exec (.irqEnWrite v) s = .next { s with irq := { s.irq with
      enable := ⟨v.getLsbD 0, v.getLsbD 1, v.getLsbD 2, v.getLsbD 3⟩ } } ∧
    exec (.stickyWrite v) s = .next { s with port := { s.port with sticky :=
      { cmdRefused := if v.getLsbD 0 then false else s.port.sticky.cmdRefused
        paramSpill := if v.getLsbD 1 then false else s.port.sticky.paramSpill
        dataSpill := if v.getLsbD 2 then false else s.port.sticky.dataSpill
        dataShort := if v.getLsbD 3 then false else s.port.sticky.dataShort
        reportsLost := if v.getLsbD 4 then false else s.port.sticky.reportsLost } } } ∧
    ∀ offset ∈ discardedOffsets, exec (.registerWriteDiscarded offset v) s = .next s) ∧
  ∀ s : State, s.phase ≠ .held →
    let reads : BitVec 4 → Byte := s.readRegister
    let place : Option Job → Nat := fun slot =>
      match slot with
      | none => 0
      | some j => (match j.state with | .opened => 1 | .closed => 2 | .aborting _ => 3)
    reads 0x1 = (match s.port.result with
      | .ok => 0x00 | .unknownCommand => 0x01 | .badLength => 0x02 | .badParam => 0x03
      | .badState => 0x04 | .range => 0x05 | .zone => 0x06 | .late => 0x07
      | .tooLate => 0x08 | .tableFull => 0x09 | .noSuchHandle => 0x0A | .noJob => 0x0B
      | .dupTag => 0x0C | .badGlyph => 0x0D | .slotsFull => 0x0E | .notHeld => 0x0F) ∧
    reads 0x2 = s.port.cmd ∧ reads 0x3 = 0x00 ∧
    ((reads 0x7).getLsbD 0 = true ↔ s.reports.records ≠ []) ∧
    ((reads 0x7).getLsbD 1 = true ↔ s.upload.cur.isSome = true ∧ s.upload.nxt = none) ∧
    (reads 0x7).getLsbD 2 = s.irq.input ∧ (reads 0x7).getLsbD 3 = s.irq.done ∧
    (reads 0x8).getLsbD 0 = s.irq.enable.report ∧ (reads 0x8).getLsbD 1 = s.irq.enable.uploadNext ∧
    (reads 0x8).getLsbD 2 = s.irq.enable.input ∧ (reads 0x8).getLsbD 3 = s.irq.enable.done ∧
    reads 0x9 = (match s.head.mode with
      | .idle => 0x00
      | .waitLine => 0x01
      | .armed => 0x02
      | .inFlight .fetch _ => 0x03
      | .inFlight (.shift .pre _) _ => 0x04
      | .inFlight (.strobe .pre _) _ => 0x05
      | .inFlight (.shift .main _) _ => 0x06
      | .inFlight (.strobe .main _) _ => 0x07
      | .inFlight (.hold _ _) _ => 0x08) ∧
    (reads 0xA).toNat = place s.jobs.front + 4 * place s.jobs.back ∧
    (reads 0xB).getLsbD 0 = s.upload.cur.isSome ∧
    ((reads 0xB).getLsbD 1 = true ↔ ∃ g ∈ s.upload.cur, g.direction = .dirOut) ∧
    (reads 0xB).getLsbD 2 = s.upload.nxt.isSome ∧
    ((reads 0xB).getLsbD 3 = true ↔ ∃ g ∈ s.upload.nxt, g.direction = .dirOut) ∧
    (∀ bit, 4 ≤ bit → (reads 0x7).getLsbD bit = false ∧ (reads 0x8).getLsbD bit = false ∧
      (reads 0xB).getLsbD bit = false) ∧
    reads 0xD = s.port.capture ∧ (reads 0xE).toNat = s.port.params.length % 256 ∧
    (reads 0xF).getLsbD 0 = s.port.sticky.cmdRefused ∧ (reads 0xF).getLsbD 1 = s.port.sticky.paramSpill ∧
    (reads 0xF).getLsbD 2 = s.port.sticky.dataSpill ∧ (reads 0xF).getLsbD 3 = s.port.sticky.dataShort ∧
    (reads 0xF).getLsbD 4 = s.port.sticky.reportsLost ∧ (∀ bit, 5 ≤ bit → (reads 0xF).getLsbD bit = false) ∧
    ∀ t : State,
      (exec .answerRead s = .next t → t.dataOut = reads 0x4) ∧ (exec .dataRead s = .next t → t.dataOut = reads 0x5) ∧
      (exec .reportRead s = .next t → t.dataOut = reads 0x6) ∧
      (exec .rowDoneLowRead s = .next t → t.dataOut = reads 0xC)

/-- R173: a read of offset C returns the low byte of the front job's done row and puts the high byte in the capture, which a
read of offset D then returns; 0000h with the table empty. Once captured, the high byte stays until the next read of offset C or a
reset, whatever row or internal step comes between. And what the window and the pins show of the state: the bits of STATUS (R162,
R177), DREQ with DATA_READY (R145), the INT pin low exactly while a source is pending and enabled (R159), and FEEDREQ exactly in
ARMED with PAPER present (R104). While RESET is asserted, and with no line in flight, the strobe lines, the latch pulse, the serial
dots and the shift clock are inactive: after either reset by R122, at other times the model's choice for the last two (log entry
17, which leaves the inactive level of the clock free). During a shift the clock goes active once in the four CLKIN periods of each
dot (R109); where, and for how long, is free (log entry 17). SDATA gives dot column c of the pass's line on shift-clock period c,
leftmost dot first (R109, R125), the latch pulse stands on the period after the last dot and on no other (R109), with SDATA then
inactive (log entry 17), and strobe line k is driven exactly in a pulse of group k (R110). -/
def Obligations.RowDoneReadsWithoutTearing : Prop :=
  (∀ s : State, s.phase ≠ .held → ∃ t : State, exec .rowDoneLowRead s = .next t ∧
    t = { s with dataOut := t.dataOut, port := { s.port with capture := t.port.capture } } ∧
    t.dataOut.toNat + 256 * (t.readRegister 0xD).toNat =
      (match s.jobs.front with
      | some j => j.done % 65536
      | none => 0)) ∧
  (  ∀ (c : Instr) (s t : State), c.wf = true → c ≠ .rowDoneLowRead → c ≠ .softReset → c ≠ .cmdWriteRefused 0xA5 →
      c ≠ .resetAsserted → c ≠ .resetReleased → exec c s = .next t → t.port.capture = s.port.capture) ∧
  (∀ s t : State, s.pending = [] → step s = .next t → t.port.capture = s.port.capture) ∧
  (∀ s : State, s.phase ≠ .held →
    let status := s.readRegister 0x0
    let dataReady : Prop :=
      (∃ g ∈ s.upload.cur, g.direction = .dirIn ∧ s.upload.fifo.length < 8 ∧ s.upload.fifo.length < g.bytesLeft) ∨
        (∃ g ∈ s.upload.cur, g.direction = .dirOut ∧ s.upload.fifo ≠ [])
    (status.getLsbD 0 = true ↔ s.phase = .ready) ∧ (status.getLsbD 1 = true ↔ s.port.busy = true) ∧
      (status.getLsbD 2 = true ↔ s.port.params.length < 48) ∧ (status.getLsbD 3 = true ↔ dataReady) ∧
      (status.getLsbD 4 = true ↔ s.reports.records ≠ []) ∧ (status.getLsbD 5 = true ↔ s.hot = true) ∧
      (status.getLsbD 6 = true ↔ s.paper = true) ∧
      (status.getLsbD 7 = true ↔ s.port.sticky ≠ ⟨false, false, false, false, false⟩) ∧
      (s.dreq = true ↔ dataReady) ∧
      (s.intPin = .low ↔
        (s.reports.records ≠ [] ∧ s.irq.enable.report = true) ∨
          ((s.upload.cur.isSome = true ∧ s.upload.nxt = none) ∧ s.irq.enable.uploadNext = true) ∨
          (s.irq.input = true ∧ s.irq.enable.input = true) ∨ (s.irq.done = true ∧ s.irq.enable.done = true)) ∧
      (s.feedreq = true ↔ s.head.mode = .armed ∧ s.paper = true)) ∧
  (∀ s : State,
    (s.phase = .held → s.dreq = false ∧ s.intPin = .released ∧ s.feedreq = false) ∧
    (s.phase = .held ∨ s.head.mode.flight = none →
      (∀ k, s.strobe k = false) ∧ s.latchPulse = false ∧ s.sdata = false ∧ s.sclk = Config.sclkIdle)) ∧
  (∀ (s : State) (p : Pass) (line : Line), s.phase ≠ .held →
    let shifting : Nat → Nat → State := fun period i =>
      { s with head := { s.head with
        mode := .inFlight (.shift p (4 * (s.headCfg.dots + 1) - (4 * period + i))) line } }
    (∀ dot < s.headCfg.dots,
      (∃ i < 4, ∀ k < 4, ((shifting dot k).sclk ≠ Config.sclkIdle ∧
        (shifting dot ((k + 3) % 4)).sclk = Config.sclkIdle) ↔ k = i) ∧
      ∀ i < 4, (shifting dot i).latchPulse = false ∧
        (shifting dot i).sdata =
          ((match p with | .pre => line.newDots | .main => line.bytes).getD (dot / 8) 0x00).getMsbD (dot % 8)) ∧
    ∀ i < 4, (shifting s.headCfg.dots i).latchPulse = true ∧ (shifting s.headCfg.dots i).sdata = false) ∧
  ∀ (s : State) (k : Nat), s.strobe k = true ↔
    s.phase ≠ .held ∧ ∃ p n line, s.head.mode = .inFlight (.strobe p n) line ∧ line.group = k

/-- R132: while the RESET pin is asserted a register access is not taken: a read returns 00h and a write changes nothing;
line steps are ignored, and HOT and PAPER change their levels alone. Rows outside the condition in their name act as the
physical write (the model's choice, log entry 9). -/
def Obligations.NothingIsTakenWhileResetIsAsserted : Prop :=
  ∀ s : State, s.phase = .held →
    (∀ c ∈ [Instr.answerRead, .dataRead, .reportRead, .rowDoneLowRead],
      exec c s = .next { s with dataOut := 0x00 }) ∧
    (∀ offset : BitVec 4, s.readRegister offset = 0x00) ∧
    (∀ row ∈ commandRows, exec row.1 s = .next s) ∧
    (∀ v : Byte, ∀ c ∈ [Instr.unknownCommand v, .cmdWriteRefused v, .paramWrite v, .dataWrite v, .irqPendWrite v,
      .irqEnWrite v, .stickyWrite v], exec c s = .next s) ∧
    (∀ (offset : BitVec 4) (v : Byte), exec (.registerWriteDiscarded offset v) s = .next s) ∧
    exec .lineStep s = .next s ∧
    (∀ level : Bool, exec (.hotChange level) s = .next { s with hot := level } ∧
      exec (.paperChange level) s = .next { s with paper := level })

/-! ### Reports (chapter 9) -/

/-- R154: a REPORT read returns the byte of the head record at the read position; the read of the eighth byte removes the
record; a read with the queue empty returns 00h and leaves the read position. Eight reads from a record boundary return the head
record, field by field and low byte first (R180), and leave the queue without it. -/
def Obligations.ReportReadsReturnTheHeadRecord : Prop :=
  ∀ s : State, s.phase ≠ .held →
    (∀ (r : Report) (rest : List Report), s.reports = ⟨r :: rest, 0⟩ →
      readReports 8 s =
        ([r.kind.code, r.tag, r.handle, r.detail, r.row.setWidth 8, (r.row >>> 8).setWidth 8, r.extra.setWidth 8,
          (r.extra >>> 8).setWidth 8],
        { s with dataOut := (r.extra >>> 8).setWidth 8, reports := ⟨rest, 0⟩ })) ∧
    exec .reportRead s = .next
      (match s.reports.records with
      | [] => { s with dataOut := 0x00 }
      | r :: rest => { s with
          dataOut := r.bytes.getD s.reports.readPos 0x00
          reports := if s.reports.readPos < 7 then ⟨r :: rest, s.reports.readPos + 1⟩ else ⟨rest, 0⟩ })

/-! ### The upload channel (chapter 8) -/

/-- R138: LOAD_SEGMENT, its checks in order and its effect: the segment, its cursor at its address and its bytes left at its
total, in the current slot of an idle channel and otherwise in the next slot (R139). -/
def Obligations.LoadSegmentChecksThenLoads : Prop :=
  ∀ s : State, s.admits →
    let ps := s.port.params
    let g : Segment := {
      direction := if paramByte ps 0 % 2 = 1 then .dirOut else .dirIn
      address := paramWord ps 1, rowBytes := paramWord ps 3, rows := paramWord ps 5, stride := paramWord ps 7
      notify := decide (paramByte ps 0 / 2 % 2 = 1)
      cursor := paramWord ps 1, position := 0, bytesLeft := paramWord ps 5 * paramWord ps 3 }
    exec .loadSegment s = .next
      (if ps.length ≠ 9 then s.answered 0x50 .badLength []
      else if 4 ≤ paramByte ps 0 ∨ g.rowBytes < 1 ∨ 256 < g.rowBytes ∨ g.rows < 1 ∨ 4096 < g.rows ∨
          g.stride < g.rowBytes ∨ 4096 < g.stride then s.answered 0x50 .badParam []
      else if s.upload.cur.isSome ∧ s.upload.nxt.isSome then s.answered 0x50 .slotsFull []
      else if 65536 < g.address + (g.rows - 1) * g.stride + g.rowBytes then s.answered 0x50 .range []
      else if (s.jobs.front.isSome ∨ s.jobs.back.isSome) ∧ s.segmentOverZone g then s.answered 0x50 .zone []
      else if s.upload.cur.isSome then
        ({ s with upload := { s.upload with nxt := some g } } : State).answered 0x50 .ok []
      else ({ s with upload := { s.upload with cur := some g } } : State).answered 0x50 .ok [])

/-- R148: STOP_UPLOAD empties both slots and the FIFO, answers the bytes left in three bytes, low byte first, posts nothing,
and leaves an access of the channel in progress to be performed for nothing. -/
def Obligations.StopUploadEmptiesTheChannel : Prop :=
  ∀ s : State, s.admits →
    let left := (s.upload.cur.map Segment.bytesLeft).getD 0
    exec .stopUpload s = .next
      (if s.port.params ≠ [] then s.answered 0x51 .badLength []
      else ({ s with
          upload := ⟨none, none, []⟩
          arbiter := { s.arbiter with inProgress := s.arbiter.inProgress.map fun a =>
            if a.client = Client.rotating .upload then { a with live := false } else a } } : State).answered 0x51 .ok
        [BitVec.ofNat 8 left, BitVec.ofNat 8 (left / 256), BitVec.ofNat 8 (left / 65536)])

/-- R140: a DATA write joins the FIFO of a current IN segment when it holds fewer than 8 bytes and fewer than the segment's
bytes left; any other is discarded and sets DATA_SPILL. -/
def Obligations.DataWriteJoinsTheFifoOrSpills : Prop :=
  ∀ (v : Byte) (s : State), s.phase ≠ .held →
    exec (.dataWrite v) s = .next
      (if ∃ g ∈ s.upload.cur, g.direction = .dirIn ∧ s.upload.fifo.length < 8 ∧ s.upload.fifo.length < g.bytesLeft then
        { s with upload := { s.upload with fifo := s.upload.fifo ++ [v] } }
      else { s with port := { s.port with sticky := { s.port.sticky with dataSpill := true } } })

/-- R143 and R144: a DATA read takes the FIFO head of a current OUT segment and one of its bytes left; the read of the last
byte ends the segment; any other read returns 00h with DATA_SHORT. -/
def Obligations.DataReadTakesTheHeadOrFallsShort : Prop :=
  ∀ s : State, s.phase ≠ .held →
    (∀ (g : Segment) (v : Byte) (rest : List Byte), s.upload.cur = some g → g.direction = .dirOut →
      s.upload.fifo = v :: rest → 2 ≤ g.bytesLeft →
      exec .dataRead s = .next { s with
        dataOut := v
        upload := ⟨some { g with bytesLeft := g.bytesLeft - 1 }, s.upload.nxt, rest⟩ }) ∧
    (∀ (g : Segment) (v : Byte), s.upload.cur = some g → g.direction = .dirOut → s.upload.fifo = [v] →
      g.bytesLeft = 1 →
      let ended : State := { s with dataOut := v, upload := ⟨s.upload.nxt, none, []⟩ }
      exec .dataRead s = .next
        (if g.notify then post ⟨.segmentDone, 0x00, 0xFF, 0x02, 0, BitVec.ofNat 16 (g.rows * g.rowBytes)⟩ ended
        else ended)) ∧
    ((s.upload.fifo = [] ∨ ∀ g ∈ s.upload.cur, g.direction = .dirIn) →
      exec .dataRead s = .next { s with
        dataOut := 0x00
        port := { s.port with sticky := { s.port.sticky with dataShort := true } } })

/-- R141 and R142: a store writes the FIFO's head byte at the cursor and takes one of the bytes left; a prefetch reads the byte
at the cursor into the FIFO's tail and leaves bytes left; the cursor goes on in its row or to the start of the next, and no
other byte of memory changes. The store of the last byte ends the segment (R144). With no access in progress at the arbiter and
memory in its canonical form. That a row performs its access at once, ahead of the arbiter's turn, is the model's choice (log
entry 8). -/
def Obligations.UploadAccessesMoveOneByte : Prop :=
  ∀ (s : State) (g : Segment), s.quiet → s.mem.wf = true → s.upload.cur = some g → g.cursor < 65536 →
    let moved : Segment :=
      if g.position + 1 < g.rowBytes then { g with cursor := g.cursor + 1, position := g.position + 1 }
      else { g with cursor := g.cursor - g.position + g.stride, position := 0 }
    (∀ (v : Byte) (rest : List Byte), g.direction = .dirIn → s.upload.fifo = v :: rest → 2 ≤ g.bytesLeft →
      ∃ m : Memory, exec .uploadStore s = .next { s with
          mem := m
          arbiter := ⟨none, .upload⟩
          upload := ⟨some { moved with bytesLeft := g.bytesLeft - 1 }, s.upload.nxt, rest⟩ } ∧
        ∀ a, Memory.read m a = if a = g.cursor then v else Memory.read s.mem a) ∧
    (∀ v : Byte, g.direction = .dirIn → s.upload.fifo = [v] → g.bytesLeft = 1 →
      ∃ m : Memory, (∀ a, Memory.read m a = if a = g.cursor then v else Memory.read s.mem a) ∧
        let ended : State := { s with mem := m, arbiter := ⟨none, .upload⟩, upload := ⟨s.upload.nxt, none, []⟩ }
        exec .uploadStore s = .next
          (if g.notify then post ⟨.segmentDone, 0x00, 0xFF, 0x01, 0, BitVec.ofNat 16 (g.rows * g.rowBytes)⟩ ended
          else ended)) ∧
    (g.direction = .dirOut → s.upload.fifo.length < 8 → s.upload.fifo.length < g.bytesLeft →
      exec .uploadPrefetch s = .next { s with
        arbiter := ⟨none, .upload⟩
        upload := ⟨some moved, s.upload.nxt, s.upload.fifo ++ [Memory.read s.mem g.cursor]⟩ })

/-! ### The configurations and SOFT_RESET -/

/-- R100: SET_HEAD, its checks in order and its effect: the six values, and the history line cleared to the new W bytes. -/
def Obligations.SetHeadChecksThenConfigures : Prop :=
  ∀ s : State, s.admits →
    let ps := s.port.params
    let dots := paramWord ps 1
    let groups := paramByte ps 3
    exec .setHead s = .next
      (if s.jobs.front.isSome ∨ s.jobs.back.isSome then s.answered 0x10 .badState []
      else if ps.length ≠ 7 then s.answered 0x10 .badLength []
      else if paramByte ps 0 < 12 ∨ 24 < paramByte ps 0 ∨ dots < 64 ∨ 1024 < dots ∨ dots % 8 ≠ 0 ∨
          groups ∉ [1, 2, 4, 8] ∨ dots / groups % 8 ≠ 0 ∨ dots % groups ≠ 0 ∨ paramByte ps 5 < 1 ∨ paramByte ps 6 < 1 ∨
          2500 < 4 * paramByte ps 4 + 8 * paramByte ps 5 then s.answered 0x10 .badParam []
      else if 65536 < s.ring.base + s.ring.n * (dots / 8) * s.ring.h then s.answered 0x10 .range []
      else ({ s with
          headCfg := ⟨paramByte ps 0, dots, groups, 4 * paramByte ps 4, 8 * paramByte ps 5, 10 * paramByte ps 6⟩
          head := { s.head with history := List.replicate (dots / 8) 0x00 } } : State).answered 0x10 .ok [])

/-- R62: SET_BANDS, its checks in order; taken, the new configuration with every band FREE and the claim index 0 (R63). -/
def Obligations.SetBandsChecksThenConfigures : Prop :=
  ∀ s : State, s.admits →
    let ps := s.port.params
    let base := paramWord ps 0
    let h := paramByte ps 2
    let n := paramByte ps 3
    exec .setBands s = .next
      (if s.jobs.front.isSome ∨ s.jobs.back.isSome then s.answered 0x11 .badState []
      else if ps.length ≠ 4 then s.answered 0x11 .badLength []
      else if base % 16 ≠ 0 ∨ h ∉ [8, 16, 32, 64] ∨ n < 2 ∨ 8 < n then s.answered 0x11 .badParam []
      else if 65536 < base + n * (s.headCfg.dots / 8) * h then s.answered 0x11 .range []
      else ({ s with ring := ⟨base, h, n, List.replicate n none, 0⟩ } : State).answered 0x11 .ok [])

/-- R175 and R176: SOFT_RESET, whether or not a command is busy, empties every block, keeps the configurations, the glyph store,
the interrupt enables and the copy of the inputs, lets an access in progress be performed, and completes with OK and DONE. -/
def Obligations.SoftResetEmptiesTheBlocks : Prop :=
  ∀ s : State, s.phase = .ready →
    exec .softReset s = .next {
      phase := .ready, hot := s.hot, paper := s.paper, dataOut := s.dataOut
      port := {
        params := [], answer := [], answerPos := 0, result := .ok, cmd := 0xA5, busy := false
        sticky := ⟨false, false, false, false, false⟩, capture := 0x00, proof := none }
      jobs := ⟨none, none⟩
      placements := []
      glyphs := s.glyphs
      ring := { s.ring with bands := List.replicate s.ring.n none, claim := 0 }
      renderer := .idle
      headCfg := s.headCfg
      head := ⟨.idle, List.replicate (s.headCfg.dots / 8) 0x00, false, false⟩
      mem := (match s.arbiter.inProgress with
        | some a => (match a.write with
          | some v => Memory.write s.mem a.addr v
          | none => s.mem)
        | none => s.mem)
      arbiter := ⟨none, .port⟩
      upload := ⟨none, none, []⟩
      reports := ⟨[], 0⟩
      irq := { s.irq with input := false, done := true }
      pending := s.pending }

/-! ### The glyph store (chapter 3) -/

/-- R52 and R53: DEFINE_GLYPH, its checks in order; taken, the code's descriptor is the RAM descriptor given, whole, and no
other descriptor and no other state changes. -/
def Obligations.DefineGlyphChecksThenDefines : Prop :=
  ∀ s : State, s.admits →
    let ps := s.port.params
    let g : RamGlyph := ⟨paramByte ps 1, paramByte ps 2, paramByte ps 3, paramWord ps 4⟩
    let last := g.base + g.height * ((g.width + 7) / 8)
    ∃ gs : List GlyphEntry,
      (∀ c : Byte, ({ s with glyphs := gs } : State).glyph c = if c = ps.getD 0 0x00 then .ram g else s.glyph c) ∧
      exec .defineGlyph s = .next
        (if ps.length ≠ 6 then s.answered 0x20 .badLength []
        else if g.width < 1 ∨ 32 < g.width ∨ g.height < 1 ∨ 64 < g.height ∨ g.advance < 1 ∨ 40 < g.advance then
          s.answered 0x20 .badParam []
        else if 65536 < last then s.answered 0x20 .range []
        else if g.base < s.ring.base + s.ring.n * (s.headCfg.dots / 8) * s.ring.h ∧ s.ring.base < last then
          s.answered 0x20 .zone []
        else ({ s with glyphs := gs } : State).answered 0x20 .ok [])

/-- R54: RESTORE_GLYPH returns the code's descriptor to what power-on gives it, a ROM descriptor for 20h to 7Fh and undefined
otherwise; no other descriptor and no other state changes. -/
def Obligations.RestoreGlyphGivesThePowerOnDescriptor : Prop :=
  ∀ s : State, s.admits →
    let ps := s.port.params
    ∃ gs : List GlyphEntry,
      (∀ c : Byte, ({ s with glyphs := gs } : State).glyph c =
        if c = ps.getD 0 0x00 then (if 0x20 ≤ c.toNat ∧ c.toNat ≤ 0x7F then .rom else .undefined) else s.glyph c) ∧
      exec .restoreGlyph s = .next
        (if ps.length ≠ 1 then s.answered 0x21 .badLength []
        else ({ s with glyphs := gs } : State).answered 0x21 .ok [])

/-! ### Jobs (chapter 1) -/

/-- R6 and R7: OPEN_JOB, its checks in order; taken into an empty table the job is the front job, the head channel begins it
with a clear history line and settles, and the renderer looks; beside a CLOSED job it is the back job, and the renderer
looks. -/
def Obligations.OpenJobChecksThenOpens : Prop :=
  ∀ s : State, s.admits →
    let ps := s.port.params
    let j : Job := {
      tag := ps.getD 0 0x00, length := paramWord ps 1, trailing := paramWord ps 3
      policy := if paramByte ps 5 = 0 then .blank else .abort
      state := .opened, commitRow := 0, rendered := 0, done := 0, blankRows := 0 }
    exec .openJob s = .next
      (if s.jobs.back.isSome ∨ ∃ k ∈ s.jobs.front, k.state ≠ .closed then s.answered 0x30 .badState []
      else if ps.length ≠ 6 then s.answered 0x30 .badLength []
      else if j.length = 0 ∨ 4095 < j.trailing ∨ 1 < paramByte ps 5 then s.answered 0x30 .badParam []
      else if ∃ k ∈ s.jobs.front, k.tag = j.tag then s.answered 0x30 .dupTag []
      else if (∃ g ∈ s.upload.cur, s.segmentOverZone g) ∨ ∃ g ∈ s.upload.nxt, s.segmentOverZone g then
        s.answered 0x30 .zone []
      else if s.jobs.front = none then
        (look (settle { s with
          jobs := ⟨some j, none⟩
          head := { s.head with
            history := List.replicate (s.headCfg.dots / 8) 0x00, started := false } })).answered 0x30 .ok []
      else (look { s with jobs := ⟨s.jobs.front, some j⟩ }).answered 0x30 .ok [])

/-- R8: COMMIT on the OPEN job: a row above the length is taken as the length, a row below the commit row is refused, an equal
row changes nothing, and a higher row becomes the commit row and the renderer looks. -/
def Obligations.CommitRaisesTheCommitRow : Prop :=
  ∀ s : State, s.admits →
    (s.jobs.openJob = none → exec .commit s = .next (s.answered 0x31 .badState [])) ∧
    ∀ j : Job, s.jobs.openJob = some j →
      let row := min (paramWord s.port.params 0) j.length
      exec .commit s = .next
        (if s.port.params.length ≠ 2 then s.answered 0x31 .badLength []
        else if row < j.commitRow then s.answered 0x31 .badParam []
        else if row = j.commitRow then s.answered 0x31 .ok []
        else (look { s with
          jobs := s.jobs.update j.tag fun k => { k with commitRow := row } }).answered 0x31 .ok [])

/-- R9: CLOSE_JOB makes the OPEN job CLOSED with its commit row at its length, and the renderer looks. -/
def Obligations.CloseJobCommitsTheLength : Prop :=
  ∀ s : State, s.admits →
    (s.jobs.openJob = none → exec .closeJob s = .next (s.answered 0x32 .badState [])) ∧
    ∀ j : Job, s.jobs.openJob = some j →
      exec .closeJob s = .next
        (if s.port.params ≠ [] then s.answered 0x32 .badLength []
        else (look { s with jobs := s.jobs.update j.tag fun k =>
          { k with state := .closed, commitRow := k.length } }).answered 0x32 .ok [])

/-- R16 and R18: the checks of ABORT_JOB in order; a front job with a line in flight stays, ABORTING with cause HOST; it loses its
placements and every band but its PRINTING one. R70, of every job that is aborted: its bands are freed, its PRINTING one too unless a
line of it is in flight, the claim index is set to the one after the newest band still non-FREE, a renderer that composes a band of
it abandons that band (R94). The claim index is so set also where no band was freed (log entry 19), and the renderer looks after all
that the event frees and promotes (log entry 18). -/
def Obligations.AbortJobWithALineInFlightWaits : Prop :=
  ∀ s : State, s.admits →
    let ps := s.port.params
    (ps.length ≠ 1 → exec .abortJob s = .next (s.answered 0x33 .badLength [])) ∧
    (∀ tag : Byte, ps = [tag] →
      (s.jobs.find tag = none → exec .abortJob s = .next (s.answered 0x33 .noJob [])) ∧
      (∀ j : Job, s.jobs.find tag = some j → j.isAborting = true →
        exec .abortJob s = .next (s.answered 0x33 .badState [])) ∧
      (∀ j : Job, s.jobs.front = some j → j.tag = tag → j.isAborting = false → s.head.lineInFlight = true →
        ∃ t : State, exec .abortJob s = .next t ∧
          t.port = (s.answered 0x33 .ok []).port ∧ t.irq = (s.answered 0x33 .ok []).irq ∧
          t.jobs = ⟨some { j with state := .aborting .host }, s.jobs.back⟩ ∧
          t.head = s.head ∧ t.reports = s.reports ∧ t.mem = s.mem ∧ t.upload = s.upload ∧ t.glyphs = s.glyphs ∧
          t.headCfg = s.headCfg ∧
          (∀ p ∈ t.placements, p.job ≠ tag) ∧
          (∀ i b, s.ring.bandAt i = some b → (b.job ≠ tag ∨ b.state = .printing) → t.ring.bandAt i = some b) ∧
          ((∀ k ∈ s.jobs.back, k.tag ≠ tag) → ∀ i b, t.ring.bandAt i = some b → b.job = tag → b.state = .printing)) ∧
      (∀ j : Job, s.jobs.find tag = some j → j.isAborting = false →
        ∃ t u : State, exec .abortJob s = .next t ∧ t.ring = (look u).ring ∧ t.renderer = (look u).renderer ∧
          t.placements = (look u).placements ∧ u.jobs = t.jobs ∧ u.headCfg = s.headCfg ∧
          u.port.proof = s.port.proof ∧ u.placements = s.placements.filter (fun p => decide (p.job ≠ tag)) ∧
          u.renderer = (match s.renderer with
            | .rendering w => if w.job = tag then .idle else s.renderer
            | _ => s.renderer) ∧
          u.ring.base = s.ring.base ∧ u.ring.h = s.ring.h ∧ u.ring.n = s.ring.n ∧
          u.ring.bands = s.ring.bandsFreed tag (s.jobs.isFront tag && s.head.lineInFlight) ∧
          s.ring.claimSetBack u.ring))

/-- R18, R19 and R21: ABORT_JOB of a job with no line in flight ends at once: JOB_ABORTED is posted with cause HOST and the done
row, the slot, the placements and the bands of the job become FREE, and the other job stays, a back job moving to the front. -/
def Obligations.AbortJobWithNoLineInFlightEndsAtOnce : Prop :=
  ∀ (s : State) (j : Job), s.admits → s.port.params = [j.tag] → j.isAborting = false →
    (s.jobs.front = some j ∧ s.head.lineInFlight = false ∧ (∀ k ∈ s.jobs.back, k.tag ≠ j.tag)) ∨
      (s.jobs.back = some j ∧ ∃ k ∈ s.jobs.front, k.tag ≠ j.tag) →
    ∃ t : State, exec .abortJob s = .next t ∧
      t.port.result = .ok ∧ t.port.answer = [] ∧ t.port.busy = false ∧ t.irq.done = true ∧
      t.jobs = (if s.jobs.front = some j then ⟨s.jobs.back, none⟩ else ⟨s.jobs.front, none⟩) ∧
      t.reports.records = (if s.reports.records.length < 16 then
        s.reports.records ++ [⟨.jobAborted, j.tag, 0xFF, 0x01, BitVec.ofNat 16 j.done, 0⟩] else s.reports.records) ∧
      t.mem = s.mem ∧ t.upload = s.upload ∧ t.glyphs = s.glyphs ∧ t.headCfg = s.headCfg ∧
      (s.jobs.back = some j → s.jobs.front ≠ some j → t.head = s.head) ∧
      (∀ p ∈ t.placements, p.job ≠ j.tag) ∧
      (∀ i b, s.ring.bandAt i = some b → b.job ≠ j.tag → t.ring.bandAt i = some b) ∧
      (∀ i b, t.ring.bandAt i = some b → b.job ≠ j.tag)

/-- R10 and R179: QUERY_JOB answers the record of the job of the tag, field by field and low byte first, and changes nothing. -/
def Obligations.QueryJobAnswersTheRecord : Prop :=
  ∀ s : State, s.admits →
    (s.port.params.length ≠ 1 → exec .queryJob s = .next (s.answered 0x34 .badLength [])) ∧
    ∀ tag : Byte, s.port.params = [tag] →
      (s.jobs.find tag = none → exec .queryJob s = .next (s.answered 0x34 .noJob [])) ∧
      ∀ j : Job, s.jobs.find tag = some j →
        exec .queryJob s = .next (s.answered 0x34 .ok [
          tag,
          if ∃ k ∈ s.jobs.front, k.tag = tag then 0x00 else 0x01,
          match j.state with | .opened => 0x01 | .closed => 0x02 | .aborting _ => 0x03,
          match j.policy with | .blank => 0x00 | .abort => 0x01,
          BitVec.ofNat 8 j.length, BitVec.ofNat 8 (j.length / 256),
          BitVec.ofNat 8 j.trailing, BitVec.ofNat 8 (j.trailing / 256),
          BitVec.ofNat 8 j.commitRow, BitVec.ofNat 8 (j.commitRow / 256),
          BitVec.ofNat 8 j.rendered, BitVec.ofNat 8 (j.rendered / 256),
          BitVec.ofNat 8 j.done, BitVec.ofNat 8 (j.done / 256), BitVec.ofNat 8 (j.done / 65536),
          BitVec.ofNat 8 j.blankRows, BitVec.ofNat 8 (j.blankRows / 256),
          match j.state with
          | .aborting .host => 0x01
          | .aborting .underrun => 0x02
          | .aborting .stepLost => 0x03
          | .aborting .headHot => 0x04
          | _ => 0x00])

/-! ### Placements (chapter 2) -/

/-- R33, R34, R35 and R37 for a BAR, and checks 1 to 3 where the kind does not matter (no OPEN job, fewer than nine bytes, a kind
byte that names none): the checks in order and the placement accepted. -/
def Obligations.PlaceBarChecksThenAccepts : Prop :=
  (∀ s : State, s.admits →
    (s.jobs.openJob = none → exec .place s = .next (s.answered 0x40 .badState [])) ∧
    (s.jobs.openJob.isSome = true → s.port.params.length < 9 →
      exec .place s = .next (s.answered 0x40 .badLength [])) ∧
    (s.jobs.openJob.isSome = true → 9 ≤ s.port.params.length → paramByte s.port.params 0 ∉ [1, 2, 3] →
      exec .place s = .next (s.answered 0x40 .badParam []))) ∧
  ∀ (s : State) (j : Job), s.admits → s.jobs.openJob = some j → 9 ≤ s.port.params.length →
    paramByte s.port.params 0 = 3 →
    let ps := s.port.params
    let w := paramWord ps 9
    let h := paramWord ps 11
    (ps.length ≠ 13 → exec .place s = .next (s.answered 0x40 .badLength [])) ∧
    (ps.length = 13 →
      let fieldsBad := placeCommonBad ps ∨ w < 1 ∨ 1024 < w ∨ h < 1 ∨ 4096 < h ∨
        (2 ≤ paramByte ps 6 ∧ paramWord ps 7 < h)
      (fieldsBad → exec .place s = .next (s.answered 0x40 .badParam [])) ∧
      (¬ fieldsBad → exec .place s = .next
        (if j.length ≤ paramWord ps 2 then s.answered 0x40 .range []
        else if paramWord ps 2 < j.commitRow then s.answered 0x40 .late []
        else placed s j .bar w h)))

/-- R30, R34, R35 and R37 for an IMAGE: the checks in order, the source footprint among them, and the placement accepted. -/
def Obligations.PlaceImageChecksThenAccepts : Prop :=
  ∀ (s : State) (j : Job), s.admits → s.jobs.openJob = some j → 9 ≤ s.port.params.length →
    paramByte s.port.params 0 = 2 →
    let ps := s.port.params
    let w := paramWord ps 9
    let h := paramWord ps 11
    let source := paramWord ps 13
    let stride := paramByte ps 15
    (ps.length ≠ 16 → exec .place s = .next (s.answered 0x40 .badLength [])) ∧
    (ps.length = 16 →
      let fieldsBad := placeCommonBad ps ∨ w < 1 ∨ 1024 < w ∨ h < 1 ∨ 4096 < h ∨
        (2 ≤ paramByte ps 6 ∧ paramWord ps 7 < h) ∨ stride < 1 ∨ 128 < stride ∨ stride < (w + 7) / 8
      let last := source + (h - 1) * stride + (w + 7) / 8
      (fieldsBad → exec .place s = .next (s.answered 0x40 .badParam [])) ∧
      (¬ fieldsBad → exec .place s = .next
        (if j.length ≤ paramWord ps 2 then s.answered 0x40 .range []
        else if paramWord ps 2 < j.commitRow then s.answered 0x40 .late []
        else if 65536 < last then s.answered 0x40 .range []
        else if source < s.ring.base + s.ring.n * (s.headCfg.dots / 8) * s.ring.h ∧ s.ring.base < last then
          s.answered 0x40 .zone []
        else placed s j (.image source stride) w h)))

/-- R29, R34, R35 and R37 for GLYPHS: the checks in order; the extent is the tallest height, and the advances with the spacing
between them, of the descriptors as they stand. -/
def Obligations.PlaceGlyphsChecksThenAccepts : Prop :=
  ∀ (s : State) (j : Job), s.admits → s.jobs.openJob = some j → 9 ≤ s.port.params.length →
    paramByte s.port.params 0 = 1 →
    let ps := s.port.params
    let spacing := paramByte ps 9
    let codes := ps.drop 10
    let h := (codes.map fun c => (s.glyph c).height).foldl max 0
    let w := (codes.map fun c => (s.glyph c).advance).sum + (codes.length - 1) * spacing
    (ps.length < 11 ∨ 42 < ps.length → exec .place s = .next (s.answered 0x40 .badLength [])) ∧
    (11 ≤ ps.length → ps.length ≤ 42 →
      let fieldsBad := placeCommonBad ps ∨ 15 < spacing
      (fieldsBad → exec .place s = .next (s.answered 0x40 .badParam [])) ∧
      (¬ fieldsBad → exec .place s = .next
        (if j.length ≤ paramWord ps 2 then s.answered 0x40 .range []
        else if paramWord ps 2 < j.commitRow then s.answered 0x40 .late []
        else if ∃ c ∈ codes, s.glyph c = .undefined then s.answered 0x40 .badGlyph []
        else if 2 ≤ paramByte ps 6 ∧ paramWord ps 7 < h then s.answered 0x40 .badParam []
        else placed s j (.glyphs spacing codes) w h)))

/-- R39: WITHDRAW, its checks in order; a PENDING placement leaves the list, with no report; a FREE slot answers NO_SUCH_HANDLE
and an ACTIVE placement TOO_LATE. -/
def Obligations.WithdrawFreesAPendingPlacement : Prop :=
  ∀ s : State, s.admits →
    let ps := s.port.params
    let handle := paramByte ps 0
    exec .withdraw s = .next
      (if ps.length ≠ 1 then s.answered 0x41 .badLength []
      else if 64 ≤ handle then s.answered 0x41 .badParam []
      else match s.placements.find? fun p => decide (p.handle = handle) with
        | none => s.answered 0x41 .noSuchHandle []
        | some p =>
          if p.active then s.answered 0x41 .tooLate []
          else ({ s with
            placements := s.placements.filter fun q => decide (q.handle ≠ handle) } : State).answered 0x41 .ok [])

/-! ### PROOF (chapter 4) -/

/-- R73 and R74: PROOF of a row that a band holds begins the copy of the line, with the band under the PROOF hold and the command
busy; of any other row it is refused with NOT_HELD. -/
def Obligations.ProofBeginsTheCopyOfAHeldRow : Prop :=
  ∀ s : State, s.admits →
    let ps := s.port.params
    let row := paramWord ps 1
    (ps.length ≠ 3 → exec .proof s = .next (s.answered 0x60 .badLength [])) ∧
    (ps.length = 3 →
      ((∀ j ∈ s.jobs.find (ps.getD 0 0x00), ∀ i, ∀ b ∈ s.ring.bandAt i, ¬ s.rowHeld j row b) →
        exec .proof s = .next (s.answered 0x60 .notHeld [])) ∧
      (∀ (j : Job) (i : Nat) (b : Band), s.jobs.find (ps.getD 0 0x00) = some j → s.ring.bandAt i = some b →
        s.rowHeld j row b → (∀ k < i, ∀ c ∈ s.ring.bandAt k, ¬ s.rowHeld j row c) →
        exec .proof s = .next { s with port := { s.port with
          params := [], answer := [], answerPos := 0, cmd := 0x60, busy := true
          proof := some ⟨i, s.ring.base + i * (s.headCfg.dots / 8) * s.ring.h +
            (row - b.first) * (s.headCfg.dots / 8), []⟩ } }))

/-- R74: when the copy completes the hold ends, the answer holds the bytes copied and the rest of the line as memory holds it,
the command completes with OK, and the renderer looks. With the line inside memory, and with no access in progress or with the copy's
own next access in progress. That the row performs the rest of the copy at once, and that its accesses move the rotation to the command
port, is the model's choice (log entry 8). The internal step that performs the copy's last access takes the same end by itself, and
then grants the next request (log entries 5 and 13). -/
def Obligations.ProofCopyCompletesWithTheLine : Prop :=
  (∀ (s : State) (c : ProofCopy), s.port.proof = some c → c.addr + s.headCfg.dots / 8 ≤ 65536 →
    s.quiet ∨ (s.phase = .ready ∧ c.copied.length < s.headCfg.dots / 8 ∧
      s.arbiter = ⟨some ⟨.rotating .port, c.addr + c.copied.length, none, true⟩, .port⟩) →
    exec .proofCopyComplete s = .next (look { s with
      arbiter := ⟨none, if c.copied.length < s.headCfg.dots / 8 then .port else s.arbiter.rotation⟩
      irq := { s.irq with done := true }
      port := { s.port with
        proof := none, result := .ok, busy := false, answerPos := 0
        answer := c.copied ++ (List.range (s.headCfg.dots / 8 - c.copied.length)).map fun i =>
          Memory.read s.mem (c.addr + c.copied.length + i) } })) ∧
  ∀ (s : State) (c : ProofCopy), s.pending = [] → s.phase = .ready → s.atReading = false →
    let u := timers s
    u.port.proof = some c → c.addr + u.headCfg.dots / 8 ≤ 65536 → c.copied.length + 1 = u.headCfg.dots / 8 →
    u.arbiter.inProgress = some ⟨.rotating .port, c.addr + c.copied.length, none, true⟩ →
    u.composed = false → (∀ line, u.head.mode = .inFlight .fetch line → line.bytes.length < u.headCfg.dots / 8) →
    ∃ t v : State, step s = .next t ∧ exec .proofCopyComplete u = .next v ∧ t = { v with arbiter := t.arbiter }

/-! ### The pins and the power-on clear (chapter 7) -/

/-- R132 and R133: asserting RESET puts every block in its reset condition and keeps the memory's bytes; its release starts the
power-on clear from address 0000h with the copy of HOT and PAPER taken. Power-on values of R60, R99, R101, R127, R151, R160 and
R176. The manual gives these values at the release: that they stand from the assertion on is the model's reading (log entries 15
and 22), as is that the row keeps the queue and the byte last read (log entries 16 and 22). -/
def Obligations.ResetPinGivesThePowerOnValues : Prop :=
  ∀ s : State,
    let powered : PowerPhase → State := fun phase => {
      phase := phase, hot := s.hot, paper := s.paper, dataOut := s.dataOut
      port := ⟨[], [], 0, .ok, 0x00, false, ⟨false, false, false, false, false⟩, 0x00, none⟩
      jobs := ⟨none, none⟩, placements := [], glyphs := []
      ring := ⟨0x0000, 16, 4, [none, none, none, none], 0⟩
      renderer := .idle
      headCfg := ⟨16, 384, 2, 0, 600, 500⟩
      head := ⟨.idle, List.replicate 48 0x00, false, false⟩
      mem := s.mem
      arbiter := ⟨none, .port⟩, upload := ⟨none, none, []⟩, reports := ⟨[], 0⟩
      irq := ⟨false, false, ⟨false, false, false, false⟩, s.hot, s.paper⟩
      pending := s.pending }
    exec .resetAsserted s = .next (powered .held) ∧
    (s.phase = .held → exec .resetReleased s = .next (powered (.clearing 0)))

/-- R133: at the end of the power-on clear READY becomes 1, the bytes from the address reached to the end of memory are 00h, the
glyph store holds its power-on descriptors, and DONE is not raised. With no access in progress, or with the clear's own next write in
progress and memory in its canonical form. That the row performs the rest of the clear at once is the model's choice (log entry 8).
The internal step that performs the clear's last write takes the same end by itself, and then grants the next request (log entries 5
and 13). -/
def Obligations.PowerOnClearEndsReady : Prop :=
  (∀ (s : State) (a : Nat), s.phase = .clearing a →
    s.quiet ∨ (a < 65536 ∧ s.mem.wf = true ∧
      s.arbiter = ⟨some ⟨.rotating .port, a, some 0x00, true⟩, .port⟩) →
    ∃ m : Memory, exec .powerOnClearComplete s =
        .next { s with
          phase := .ready, glyphs := [], mem := m
          arbiter := ⟨none, if a < 65536 then .port else s.arbiter.rotation⟩ } ∧
      (∀ x, a ≤ x → Memory.read m x = 0x00) ∧ (∀ x, x < a → Memory.read m x = Memory.read s.mem x)) ∧
  ∀ s : State, s.pending = [] → s.phase = .clearing 65535 → s.atReading = false → s.composed = false →
    s.head.mode.flight = none → s.port.proof = none →
    s.arbiter.inProgress = some ⟨.rotating .port, 65535, some 0x00, true⟩ →
    ∃ t v : State, step s = .next t ∧ exec .powerOnClearComplete s = .next v ∧ t = { v with arbiter := t.arbiter }

/-- R133: from the release of RESET, whatever memory held, the clear takes 65,536 periods: READY is 0 before each of them and 1 after
the last, every byte is then 00h, and no sticky flag and no DONE is set. That one step with no row waiting is one period of CLKIN is
the model's choice (log entry 5). -/
def Obligations.PowerOnClearTakes65536Periods : Prop :=
  ∀ (hot paper : Bool) (m : Memory), m.wf = true →
    (∀ k < 65536, ∃ t : State,
      Host.Core.run Sys2Proof.core k { State.powerOn hot paper with mem := m } = .next t ∧ t.isReady = false) ∧
    ∃ t : State,
      Host.Core.run Sys2Proof.core 65536 { State.powerOn hot paper with mem := m } = .next t ∧ t.isReady = true ∧
        (∀ a, Memory.read t.mem a = 0x00) ∧ t.port = (State.powerOn hot paper).port ∧
        t.irq = (State.powerOn hot paper).irq

/-- R104, R119 and R157: a change of HOT or PAPER against the copy sets INPUT and the copy, in any state of the head channel; a
release of HOT in a hot hold begins the held group's pulse (startPulse, which ShiftEndBeginsThePass spells out). -/
def Obligations.InputChangesLatchInput : Prop :=
  ∀ s : State, s.phase ≠ .held →
    (s.irq.seenPaper = s.paper → ∀ level : Bool, level ≠ s.paper → exec (.paperChange level) s = .next { s with
      paper := level
      irq := { s.irq with input := true, seenHot := s.hot, seenPaper := level } }) ∧
    (s.irq.seenHot = s.hot → ∀ level : Bool, level ≠ s.hot →
      let changed : State := { s with
        hot := level
        irq := { s.irq with input := true, seenHot := level, seenPaper := s.paper } }
      ((level = true ∨ ∀ p n line, s.head.mode ≠ .inFlight (.hold p n) line) →
        exec (.hotChange level) s = .next changed) ∧
      (∀ p n line, level = false → s.head.mode = .inFlight (.hold p n) line →
        exec (.hotChange level) s = .next (startPulse p line changed)))

/-! ### The head channel (chapter 6) -/

/-- R105, R115 and R116: a line step is ignored in IDLE, until READY, and while the line is ending; with a line in flight and the
latch clear it sets the latch and changes nothing else. -/
def Obligations.LineStepIgnoredOrLatched : Prop :=
  ∀ s : State,
    (s.phase ≠ .ready ∨ s.head.mode = .idle → exec .lineStep s = .next s) ∧
    ∀ (phase : LinePhase) (line : Line), s.phase = .ready → s.head.mode = .inFlight phase line →
      (line.ending = true → exec .lineStep s = .next s) ∧
      (line.ending = false → s.head.latch = false →
        exec .lineStep s = .next { s with head := { s.head with latch := true } })

/-- R69 and R107: a line step in ARMED for a row below the length starts a line: the band holding the row becomes PRINTING, the
line in flight takes the row, its job and its band, and the head channel enters FETCH. -/
def Obligations.LineStepStartsALine : Prop :=
  ∀ (s : State) (j : Job) (i : Nat) (b : Band), s.phase = .ready → s.head.mode = .armed → s.jobs.front = some j →
    j.done < j.length → s.ring.bandHolding j.tag j.done = some i → s.ring.bandAt i = some b →
    exec .lineStep s = .next { s with
      ring := { s.ring with bands := s.ring.bands.set i (some { b with state := .printing }) }
      head := { s.head with mode := .inFlight .fetch {
        row := j.done, job := j.tag, band := i
        addr := s.ring.base + i * (s.headCfg.dots / 8) * s.ring.h + (j.done - b.first) * (s.headCfg.dots / 8)
        bytes := [], newDots := [], group := 0, ending := false } } }

/-- R13, R15 and R106: a line step in ARMED at a trailing row clears the history line and advances the done row; at the last one the
job completes, JOB_DONE is posted with the length and the blank rows, and the back job is promoted. -/
def Obligations.LineStepConsumesATrailingRow : Prop :=
  ∀ (s : State) (j : Job), s.phase = .ready → s.head.mode = .armed → s.jobs.front = some j → j.isAborting = false →
    j.length ≤ j.done →
    (j.done + 1 < j.length + j.trailing → exec .lineStep s = .next { s with
      jobs := ⟨some { j with done := j.done + 1 }, s.jobs.back⟩
      head := { s.head with history := List.replicate (s.headCfg.dots / 8) 0x00 } }) ∧
    (j.done + 1 = j.length + j.trailing → ∃ t : State, exec .lineStep s = .next t ∧
      t.jobs = ⟨s.jobs.back, none⟩ ∧
      t.reports.records = (if s.reports.records.length < 16 then
        s.reports.records ++
          [⟨.jobDone, j.tag, 0xFF, 0x00, BitVec.ofNat 16 j.length, BitVec.ofNat 16 j.blankRows⟩]
        else s.reports.records) ∧
      t.head.history = List.replicate (s.headCfg.dots / 8) 0x00 ∧ t.head.mode = t.settledMode ∧
      t.mem = s.mem ∧ t.port.params = s.port.params ∧ t.upload = s.upload)

/-- R105, R113 and R114: a line step in WAIT_LINE is an underrun. Under BLANK, with rows of the job still to come, the row is consumed
blank: history cleared, done row and blank rows advanced, UNDERRUN posted, and the head channel settles. At the job's last row the
job completes: UNDERRUN and then JOB_DONE are posted as far as the queue has room, the job's placements and bands are freed with the
claim index set to the one after the newest band still non-FREE (R14, R70; at every completion, also one that frees no band: log
entry 19), a band of it being composed is abandoned, the back job is promoted, and after all of it the renderer looks (log entry 18)
and the head channel settles. Under ABORT the job is
aborted at once: JOB_ABORTED with cause UNDERRUN at the row that was not ready, no UNDERRUN report, the job's placements and bands
freed, the back job promoted, and the head channel settles. -/
def Obligations.LineStepInWaitLineIsAnUnderrun : Prop :=
  (∀ (s : State) (j : Job), s.phase = .ready → s.head.mode = .waitLine → s.jobs.front = some j → j.policy = .blank →
    j.isAborting = false → j.done + 1 < j.length + j.trailing →
    ∃ t : State, exec .lineStep s = .next t ∧
      t.reports.records = (if s.reports.records.length < 16 then
        s.reports.records ++ [⟨.underrun, j.tag, 0xFF, 0x00, BitVec.ofNat 16 j.done, 0⟩] else s.reports.records) ∧
      t.head.mode = t.settledMode ∧
      t = { s with
        jobs := ⟨some { j with done := j.done + 1, blankRows := j.blankRows + 1 }, s.jobs.back⟩
        head := { s.head with history := List.replicate (s.headCfg.dots / 8) 0x00, mode := t.head.mode }
        reports := { s.reports with records := t.reports.records }
        port := { s.port with sticky := { s.port.sticky with
          reportsLost := s.port.sticky.reportsLost || decide (16 ≤ s.reports.records.length) } } }) ∧
  (∀ (s : State) (j : Job), s.phase = .ready → s.head.mode = .waitLine → s.jobs.front = some j → j.policy = .blank →
    j.isAborting = false → j.done + 1 = j.length + j.trailing → s.reports.records.length ≤ 16 →
    ∃ t u : State, exec .lineStep s = .next t ∧ t.jobs = ⟨s.jobs.back, none⟩ ∧
      t.reports.records = (s.reports.records ++
        ([⟨.underrun, j.tag, 0xFF, 0x00, BitVec.ofNat 16 j.done, 0⟩,
          ⟨.jobDone, j.tag, 0xFF, 0x00, BitVec.ofNat 16 j.length, BitVec.ofNat 16 (j.blankRows + 1)⟩] :
            List Report)).take 16 ∧
      t.head.history = List.replicate (s.headCfg.dots / 8) 0x00 ∧ t.head.mode = t.settledMode ∧ t.mem = s.mem ∧
      t.upload = s.upload ∧ (∀ p ∈ t.placements, p.job ≠ j.tag) ∧
      t.ring = (look u).ring ∧ t.renderer = (look u).renderer ∧ t.placements = (look u).placements ∧
      u.jobs = t.jobs ∧ u.headCfg = s.headCfg ∧ u.port.proof = s.port.proof ∧
      u.placements = s.placements.filter (fun p => decide (p.job ≠ j.tag)) ∧
      u.renderer = (match s.renderer with
        | .rendering w => if w.job = j.tag then .idle else s.renderer
        | _ => s.renderer) ∧
      u.ring.base = s.ring.base ∧ u.ring.h = s.ring.h ∧ u.ring.n = s.ring.n ∧
      u.ring.bands = s.ring.bandsFreed j.tag false ∧ s.ring.claimSetBack u.ring) ∧
  ∀ (s : State) (j : Job), s.phase = .ready → s.head.mode = .waitLine → s.jobs.front = some j → j.policy = .abort →
    (∀ k ∈ s.jobs.back, k.tag ≠ j.tag) →
    ∃ t : State, exec .lineStep s = .next t ∧
      t.jobs = ⟨s.jobs.back, none⟩ ∧
      t.reports.records = (if s.reports.records.length < 16 then
        s.reports.records ++ [⟨.jobAborted, j.tag, 0xFF, 0x02, BitVec.ofNat 16 j.done, 0⟩]
        else s.reports.records) ∧
      (∀ p ∈ t.placements, p.job ≠ j.tag) ∧ (∀ i b, t.ring.bandAt i = some b → b.job ≠ j.tag) ∧
      t.head.mode = t.settledMode ∧ t.mem = s.mem ∧ t.upload = s.upload ∧ t.headCfg = s.headCfg

/-- R17, R116 and R20: a step with the latch set clears it and aborts a front job that is not ABORTING with STEP_LOST; during a pulse
the line goes on, ending; otherwise the line ends at once, JOB_ABORTED is posted with the done row as it stood, and the back job
is promoted. A front job that is ABORTING already keeps its first cause (R20), and its line ends in the same way. -/
def Obligations.SecondStepLosesTheLine : Prop :=
  (∀ (s : State) (j : Job) (phase : LinePhase) (line : Line), s.phase = .ready → s.jobs.front = some j →
      s.head.mode = .inFlight phase line → line.ending = false → s.head.latch = true → j.isAborting = false →
      ∃ t : State, exec .lineStep s = .next t ∧ t.head.latch = false ∧ t.mem = s.mem ∧ t.upload = s.upload ∧
        (phase.isStrobe = true →
          t.head.mode = .inFlight phase { line with ending := true } ∧ t.head.history = s.head.history ∧
          t.jobs = ⟨some { j with state := .aborting .stepLost }, s.jobs.back⟩ ∧ t.reports = s.reports) ∧
        (phase.isStrobe = false →
          t.jobs = ⟨s.jobs.back, none⟩ ∧ t.head.mode = t.settledMode ∧
          t.reports.records = (if s.reports.records.length < 16 then
            s.reports.records ++ [⟨.jobAborted, j.tag, 0xFF, 0x03, BitVec.ofNat 16 j.done, 0⟩]
            else s.reports.records))) ∧
  ∀ (s : State) (j : Job) (cause : AbortCause) (phase : LinePhase) (line : Line), s.phase = .ready →
    s.jobs.front = some j → s.head.mode = .inFlight phase line → line.ending = false → s.head.latch = true →
    j.state = .aborting cause →
    ∃ t : State, exec .lineStep s = .next t ∧ t.head.latch = false ∧ t.mem = s.mem ∧ t.upload = s.upload ∧
      (phase.isStrobe = true →
        t = { s with head := { s.head with latch := false, mode := .inFlight phase { line with ending := true } } }) ∧
      (phase.isStrobe = false →
        t.jobs = ⟨s.jobs.back, none⟩ ∧ t.head.mode = t.settledMode ∧
        t.reports.records = (if s.reports.records.length < 16 then
          s.reports.records ++ [⟨.jobAborted, j.tag, 0xFF, cause.code, BitVec.ofNat 16 j.done, 0⟩]
          else s.reports.records))

/-- R108: the fetch ends with the W bytes of the line. A line with no 1 dot ends at once; otherwise the new-dots line is formed
and the pre-heat shift begins, or the main shift when the pre-heat time is 0 or no dot is new. A shift lasts 4 × (D + 1) periods
(R109). With the line inside memory, and with no access in progress or with the fetch's own next access in progress. That the row
performs the rest of the fetch at once is the model's choice (log entry 8). The internal step that performs the fetch's last access
takes the same end by itself, and then grants the next request (log entries 5 and 13). -/
def Obligations.FetchEndChoosesThePass : Prop :=
  (∀ (s : State) (line : Line), s.head.mode = .inFlight .fetch line → line.addr + s.headCfg.dots / 8 ≤ 65536 →
    s.quiet ∨ (line.bytes.length < s.headCfg.dots / 8 ∧
      s.arbiter.inProgress = some ⟨.fetch, line.addr + line.bytes.length, none, true⟩) →
    let read : State := { s with arbiter := ⟨none, s.arbiter.rotation⟩ }
    let bytes := line.bytes ++ (List.range (s.headCfg.dots / 8 - line.bytes.length)).map fun i =>
      Memory.read s.mem (line.addr + line.bytes.length + i)
    let new := List.zipWith (fun b h => b &&& ~~~h) bytes s.head.history
    let shifting : Pass → State := fun p => { read with head := { s.head with
      mode := .inFlight (.shift p (4 * (s.headCfg.dots + 1))) { line with bytes := bytes, newDots := new } } }
    ((∀ b ∈ bytes, b = 0x00) → exec .lineFetchEnd s = .next (endLine { line with bytes := bytes } read)) ∧
    ((∃ b ∈ bytes, b ≠ 0x00) → s.headCfg.preheat ≠ 0 → (∃ b ∈ new, b ≠ 0x00) →
      exec .lineFetchEnd s = .next (shifting .pre)) ∧
    ((∃ b ∈ bytes, b ≠ 0x00) → s.headCfg.preheat = 0 ∨ (∀ b ∈ new, b = 0x00) →
      exec .lineFetchEnd s = .next (shifting .main))) ∧
  ∀ (s : State) (line : Line), s.pending = [] → s.phase = .ready → s.atReading = false → s.composed = false →
    s.head.mode = .inFlight .fetch line → line.addr + s.headCfg.dots / 8 ≤ 65536 →
    line.bytes.length + 1 = s.headCfg.dots / 8 →
    s.arbiter.inProgress = some ⟨.fetch, line.addr + line.bytes.length, none, true⟩ →
    (∀ c ∈ s.port.proof, c.copied.length < s.headCfg.dots / 8) →
    ∃ t v : State, step s = .next t ∧ exec .lineFetchEnd s = .next v ∧ t = { v with arbiter := t.arbiter }

/-- R110, R111 and R118: at the end of a shift the pass takes up the first group with dots: a pulse of the pass's time begins, or with
HOT asserted the pass is held with the timer at the limit; with no group left the pre-heat pass goes on to the main shift, and the
main pass ends the line. The job's first pulse posts PRINT_STARTED and sets the started flag, for a job that is ABORTING already too
(log entry 27); a full queue drops the report with REPORTS_LOST, and the flag is set all the same. -/
def Obligations.ShiftEndBeginsThePass : Prop :=
  (∀ (s : State) (p : Pass) (n : Nat) (line : Line), s.head.mode = .inFlight (.shift p n) line →
      let dots := match p with | .pre => line.newDots | .main => line.bytes
      let width := s.headCfg.dots / 8 / s.headCfg.groups
      let groupHasDots : Nat → Prop := fun k => ∃ b ∈ (dots.drop ((k - 1) * width)).take width, b ≠ 0x00
      let pulse := match p with
        | .pre => s.headCfg.preheat * s.headCfg.timeBase
        | .main => s.headCfg.main * s.headCfg.timeBase
      (∀ k, 1 ≤ k → k ≤ s.headCfg.groups → groupHasDots k → (∀ i, 1 ≤ i → i < k → ¬ groupHasDots i) →
        (s.hot = true → exec .shiftEnd s = .next { s with head := { s.head with
          mode := .inFlight (.hold p (s.headCfg.hold * 1000 * s.headCfg.timeBase)) { line with group := k } } }) ∧
        (s.hot = false → s.head.started = true → exec .shiftEnd s = .next { s with head := { s.head with
          mode := .inFlight (.strobe p pulse) { line with group := k } } }) ∧
        (s.hot = false → s.head.started = false → s.reports.records.length < 16 →
          exec .shiftEnd s = .next { s with
            head := { s.head with mode := .inFlight (.strobe p pulse) { line with group := k }, started := true }
            reports := { s.reports with
              records := s.reports.records ++ [⟨.printStarted, line.job, 0xFF, 0x00, 0, 0⟩] } }) ∧
        (s.hot = false → s.head.started = false → 16 ≤ s.reports.records.length →
          exec .shiftEnd s = .next { s with
            head := { s.head with mode := .inFlight (.strobe p pulse) { line with group := k }, started := true }
            port := { s.port with sticky := { s.port.sticky with reportsLost := true } } })) ∧
      ((∀ k, 1 ≤ k → k ≤ s.headCfg.groups → ¬ groupHasDots k) →
        exec .shiftEnd s = .next (match p with
          | .pre => { s with head := { s.head with
              mode := .inFlight (.shift .main (4 * (s.headCfg.dots + 1))) line } }
          | .main => endLine line s))) ∧
  ∀ (s : State) (p : Pass) (line : Line),
    let pulse := match p with
      | .pre => s.headCfg.preheat * s.headCfg.timeBase
      | .main => s.headCfg.main * s.headCfg.timeBase
    let begun : State :=
      { s with head := { s.head with mode := .inFlight (.strobe p pulse) line, started := true } }
    startPulse p line s =
      (if s.head.started then begun
      else if s.reports.records.length < 16 then { begun with reports := { s.reports with
        records := s.reports.records ++ [⟨.printStarted, line.job, 0xFF, 0x00, 0, 0⟩] } }
      else { begun with port := { s.port with sticky := { s.port.sticky with reportsLost := true } } })

/-- R110 and R116: at the end of a pulse the pass takes up its next group with dots, as at the end of the shift; with none left the
pre-heat pass goes on to the main shift and the main pass ends the line (startPulse is spelled out in ShiftEndBeginsThePass, endLine in
LineEndAdvancesTheJob). An ending line of an ABORTING job ends here: JOB_ABORTED is posted with the done row as it stood, the back job is promoted and, the latch being clear, the head channel settles. -/
def Obligations.PulseEndTakesUpTheNextGroup : Prop :=
  (∀ (s : State) (j : Job) (cause : AbortCause) (p : Pass) (n : Nat) (line : Line),
    s.head.mode = .inFlight (.strobe p n) line → line.ending = true → s.head.latch = false →
    s.jobs.front = some j → j.state = .aborting cause →
    ∃ t : State, exec .strobePulseEnd s = .next t ∧ t.jobs = ⟨s.jobs.back, none⟩ ∧ t.head.mode = t.settledMode ∧
      t.mem = s.mem ∧
      t.reports.records = (if s.reports.records.length < 16 then
        s.reports.records ++ [⟨.jobAborted, j.tag, 0xFF, cause.code, BitVec.ofNat 16 j.done, 0⟩]
        else s.reports.records)) ∧
  ∀ (s : State) (p : Pass) (n : Nat) (line : Line), s.head.mode = .inFlight (.strobe p n) line →
    line.ending = false →
    let dots := match p with | .pre => line.newDots | .main => line.bytes
    let width := s.headCfg.dots / 8 / s.headCfg.groups
    let groupHasDots : Nat → Prop := fun k => ∃ b ∈ (dots.drop ((k - 1) * width)).take width, b ≠ 0x00
    (∀ k, line.group < k → k ≤ s.headCfg.groups → groupHasDots k →
      (∀ i, line.group < i → i < k → ¬ groupHasDots i) →
      exec .strobePulseEnd s = .next
        (if s.hot then { s with head := { s.head with
          mode := .inFlight (.hold p (s.headCfg.hold * 1000 * s.headCfg.timeBase)) { line with group := k } } }
        else startPulse p { line with group := k } s)) ∧
    ((∀ k, line.group < k → k ≤ s.headCfg.groups → ¬ groupHasDots k) →
      exec .strobePulseEnd s = .next (match p with
        | .pre => { s with head := { s.head with
            mode := .inFlight (.shift .main (4 * (s.headCfg.dots + 1))) line } }
        | .main => endLine line s))

/-- R110, with the latch clear. The end of a printed line whose job goes on: the history line becomes the fetched line, the done row
advances by one, the band becomes FREE when the row was its last and the renderer then looks, and the head channel settles. Of a line
that ends the job: JOB_DONE is posted with the length and the blank rows, the job's placements and bands are freed, the back job is
promoted and the head channel settles (R13, R15). Of a line of an ABORTING job: JOB_ABORTED is posted with its cause and the done row
one on, and the back job is promoted (R19). R117: where a line ends with the latch set, what follows is what the line's end with the
latch clear, a settle among it, and then a line step give: with the table then empty the step is ignored, in ARMED it is taken and in
WAIT_LINE it is an underrun. -/
def Obligations.LineEndAdvancesTheJob : Prop :=
  (∀ (s : State) (j : Job) (line : Line) (b : Band), s.jobs.front = some j → j.isAborting = false →
      j.done + 1 < j.length + j.trailing → s.head.latch = false → s.ring.bandAt line.band = some b →
      let printed : State := { s with
        jobs := ⟨some { j with done := j.done + 1 }, s.jobs.back⟩
        head := { s.head with history := line.bytes } }
      let t := endLine line s
      t.head.history = line.bytes ∧ t.head.mode = t.settledMode ∧ t.jobs = printed.jobs ∧ t.reports = s.reports ∧
        (line.row + 1 ≠ b.first + b.count → t = { printed with head := { printed.head with mode := t.head.mode } }) ∧
        (line.row + 1 = b.first + b.count →
          t = { look { printed with ring := { s.ring with bands := s.ring.bands.set line.band none } } with head := t.head })) ∧
  (∀ (s : State) (j : Job) (line : Line), s.jobs.front = some j → j.isAborting = false →
    j.done + 1 = j.length + j.trailing → s.head.latch = false →
    let t := endLine line s
    t.jobs = ⟨s.jobs.back, none⟩ ∧ t.head.mode = t.settledMode ∧ t.mem = s.mem ∧ t.upload = s.upload ∧
      t.head.history = (if s.jobs.back = none then line.bytes else List.replicate (s.headCfg.dots / 8) 0x00) ∧
      t.reports.records = (if s.reports.records.length < 16 then
        s.reports.records ++
          [⟨.jobDone, j.tag, 0xFF, 0x00, BitVec.ofNat 16 j.length, BitVec.ofNat 16 j.blankRows⟩]
        else s.reports.records) ∧
      (∀ p ∈ t.placements, p.job ≠ j.tag) ∧
      ((∀ k ∈ s.jobs.back, k.tag ≠ j.tag) → ∀ i b, t.ring.bandAt i = some b → b.job ≠ j.tag)) ∧
  (∀ (s : State) (j : Job) (cause : AbortCause) (line : Line), s.jobs.front = some j → j.state = .aborting cause →
    s.head.latch = false →
    let t := endLine line s
    t.jobs = ⟨s.jobs.back, none⟩ ∧ t.head.mode = t.settledMode ∧ t.mem = s.mem ∧ t.upload = s.upload ∧
      t.head.history = (if s.jobs.back = none then line.bytes else List.replicate (s.headCfg.dots / 8) 0x00) ∧
      t.reports.records = (if s.reports.records.length < 16 then
        s.reports.records ++ [⟨.jobAborted, j.tag, 0xFF, cause.code, BitVec.ofNat 16 (j.done + 1), 0⟩]
        else s.reports.records) ∧
      ((∀ k ∈ s.jobs.back, k.tag ≠ j.tag) → ∀ i b, t.ring.bandAt i = some b → b.job ≠ j.tag)) ∧
  ∀ (s u : State) (c : Instr), c ∈ [Instr.lineFetchEnd, .shiftEnd, .strobePulseEnd, .hotHoldExpire] → s.phase = .ready →
    s.head.lineInFlight = true → s.head.latch = true →
    exec c { s with head := { s.head with latch := false } } = .next u → u.head.lineInFlight = false →
    u.head.mode = u.settledMode ∧ exec c s = exec .lineStep u ∧ (u.jobs.front = none → exec c s = .next u)

/-- R19, R20 and R120: the hot-hold timer's expiry abandons the line: a front job not ABORTING is aborted with HEAD_HOT, an ABORTING
one keeps its cause; JOB_ABORTED is posted with the done row unchanged, the back job is promoted, and with the latch clear the head
channel settles. -/
def Obligations.HoldExpiryAbandonsTheLine : Prop :=
  ∀ (s : State) (j : Job) (p : Pass) (n : Nat) (line : Line), s.head.mode = .inFlight (.hold p n) line →
    s.jobs.front = some j → s.head.latch = false →
    ∃ t : State, exec .hotHoldExpire s = .next t ∧
      t.jobs = ⟨s.jobs.back, none⟩ ∧ t.head.mode = t.settledMode ∧ t.hot = s.hot ∧ t.mem = s.mem ∧
      t.reports.records = (if s.reports.records.length < 16 then
        s.reports.records ++ [⟨.jobAborted, j.tag, 0xFF,
          (match j.state with
          | .aborting .host => 0x01
          | .aborting .underrun => 0x02
          | .aborting .stepLost => 0x03
          | _ => 0x04), BitVec.ofNat 16 j.done, 0⟩]
        else s.reports.records)

/-! ### The renderer (chapter 5) -/

/-- R78 to R81: a look outside RENDERING. With no rows to render the renderer is IDLE; with the band's end above an OPEN job's commit
row it waits in WAIT_COMMIT; with the band at the claim index not FREE or under a PROOF hold it waits in WAIT_BAND; otherwise the
claim makes that band RENDERING, advances the claim index, makes the draw list in placement-list order and its entries ACTIVE. The
rows to render are the front job's, if it is not ABORTING and has any, and otherwise the back job's (R79). R103: a settle changes
nothing with a line in flight; otherwise the head channel is IDLE with the table empty, ARMED when the front job's next row is ready
and in WAIT_LINE when it is not. -/
def Obligations.LookChoosesWaitsOrClaims : Prop :=
  (∀ s : State, s.renderer.work = none →
      (s.jobs.toRender = none → look s = { s with renderer := .idle }) ∧
      ∀ j : Job, s.jobs.toRender = some j →
        let count := min s.ring.h (j.length - j.rendered)
        let last := j.rendered + count
        let meetsBand : Placement → Bool := fun p => decide (p.job = j.tag) &&
          (List.range p.copies).any fun k => decide (p.copyTop k < last ∧ j.rendered < p.copyTop k + p.height)
        (j.state = .opened → j.commitRow < last → look s = { s with renderer := .waitCommit ⟨j.tag, j.rendered, count⟩ }) ∧
        ((j.state = .opened → last ≤ j.commitRow) →
          (s.ring.bands[s.ring.claim]? ≠ some none ∨ (∃ c ∈ s.port.proof, c.band = s.ring.claim) →
            look s = { s with renderer := .waitBand ⟨j.tag, j.rendered, count⟩ }) ∧
          (s.ring.bands[s.ring.claim]? = some none → (∀ c ∈ s.port.proof, c.band ≠ s.ring.claim) →
            ∃ w : Work, look s = { s with
                renderer := .rendering w
                ring := { s.ring with
                  bands := s.ring.bands.set s.ring.claim (some ⟨.rendering, j.tag, j.rendered, count⟩)
                  claim := (s.ring.claim + 1) % s.ring.n }
                placements := s.placements.map fun p => if meetsBand p then { p with active := true } else p } ∧
              w.band = s.ring.claim ∧ w.job = j.tag ∧ w.first = j.rendered ∧ w.count = count ∧
              w.drawList = (s.placements.filter meetsBand).map Placement.handle ∧
              w.cursor = .clearing (count * (s.headCfg.dots / 8))))) ∧
  (∀ t : JobTable,
    (∀ j, t.front = some j → j.isAborting = false → j.rendered < j.length → t.toRender = some j) ∧
    ((∀ j ∈ t.front, j.isAborting = true ∨ j.length ≤ j.rendered) →
      (∀ k, t.back = some k → k.rendered < k.length → t.toRender = some k) ∧
      ((∀ k ∈ t.back, k.length ≤ k.rendered) → t.toRender = none))) ∧
  ∀ s : State,
    (s.head.mode.flight.isSome = true → settle s = s) ∧
    (s.head.mode.flight = none → settle s = { s with head := { s.head with mode := s.settledMode } }) ∧
    (s.jobs.front = none → s.settledMode = .idle) ∧
    ∀ j : Job, s.jobs.front = some j →
      (s.rowReady j → s.settledMode = .armed) ∧ (¬ s.rowReady j → s.settledMode = .waitLine)

/-- R12, R43, R68 and R96: the completion of a band drawn to its end is one event: the record becomes READY, or FREE when the head
has consumed all its rows; the job's rendered row is the band's end; the placements whose last row lies in it retire, RETIRED being
posted in list order for those with notify; and the renderer looks and the head channel settles. The row completes a band from any
place of the renderer in it, with no access in progress or with the renderer's own in progress: what is left of the composition is
performed at once, and only where an access was left does the rotation move, to the renderer (the model's choice, log entry 8). The
internal step that performs the renderer's last access takes the same end by itself, with the memory that the whole composition
gives, and then grants the next request (log entries 5 and 13). -/
def Obligations.BandCompletionIsOneEvent : Prop :=
  (∀ (s : State) (w : Work) (j : Job), s.renderer = .rendering w → s.composeInside w = true →
    s.jobs.find w.job = some j →
    s.quiet ∨ (w.inRange s ∧ ∃ r : Request, rendererRequest s = some r ∧ r.addr < 65536 ∧
      s.arbiter = ⟨some ⟨.rotating .renderer, r.addr, r.write, true⟩, .renderer⟩) →
    let last := w.first + w.count
    let retires : Placement → Bool := fun p => decide (p.job = w.job ∧ w.first ≤ p.lastRow ∧ p.lastRow < last)
    let record : Option Band := if last ≤ j.done then none else some ⟨.ready, w.job, w.first, w.count⟩
    exec .bandComplete s = .next (settle (look
      (((s.placements.filter fun p => retires p && p.notify).map fun p =>
          (⟨.retired, p.job, BitVec.ofNat 8 p.handle, 0x00, 0, 0⟩ : Report)).foldl (fun t r => post r t)
        { s with
          mem := composeRest s w
          arbiter := ⟨none, if w.cursor = .finished then s.arbiter.rotation else .renderer⟩
          ring := { s.ring with bands := s.ring.bands.set w.band record }
          jobs := s.jobs.update w.job fun k => { k with rendered := last }
          placements := s.placements.filter fun p => !retires p
          renderer := .idle })))) ∧
  ∀ (s : State) (w : Work) (r : Request), s.pending = [] → s.phase = .ready → s.atReading = false →
    let u := timers s
    u.renderer = .rendering w → w.inRange u → u.composeInside w = true → rendererRequest u = some r → r.addr < 65536 →
    u.arbiter.inProgress = some ⟨.rotating .renderer, r.addr, r.write, true⟩ →
    (w.advance u (Memory.read u.mem r.addr)).cursor = .finished →
    (∀ line, u.head.mode = .inFlight .fetch line → line.bytes.length < u.headCfg.dots / 8) →
    (∀ c ∈ u.port.proof, c.copied.length < u.headCfg.dots / 8) →
    ∃ t v : State, step s = .next t ∧ t.mem = composeRest u w ∧ exec .bandComplete u = .next v ∧
      t = { v with arbiter := t.arbiter }

/-- R28 to R31 and R85 to R90: a band claimed and composed with nothing between holds, dot by dot, the placements of its job drawn
over zeros in placement-list order and copy by copy, each dot combined by the op from the source dot, inverted if inverse is set;
a byte outside the band's lines is unchanged. With what the placements read outside the band (R58, R91), distinct handles, the
band inside memory, and memory in its canonical form. -/
def Obligations.ComposedBandHoldsTheLabel : Prop :=
  ∀ (s : State) (w : Work) (c : Chosen),
    let bandStart := s.ring.base + s.ring.claim * (s.headCfg.dots / 8) * s.ring.h
    let bandEnd := bandStart + c.count * (s.headCfg.dots / 8)
    s.mem.wf = true → s.headCfg.dots % 8 = 0 → 1 ≤ s.headCfg.dots → 1 ≤ c.count → bandEnd ≤ 65536 →
    (s.placements.Pairwise fun p q => p.handle ≠ q.handle) →
    (∀ p ∈ s.placements, p.job = c.job → sourcesOutside s bandStart bandEnd p) →
    (claimBand c s).renderer = .rendering w →
    let m := composeRest (claimBand c s) w
    (∀ row col, c.first ≤ row → row < c.first + c.count → col < s.headCfg.dots →
      memDot m (bandStart + (row - c.first) * (s.headCfg.dots / 8)) col = labelDot s s.mem c.job row col) ∧
    ∀ a, a < bandStart ∨ bandEnd ≤ a → Memory.read m a = Memory.read s.mem a

/-- R76, R87 and R90: the renderer's accesses and readings, taken one by one, lead where the band completed at one go leads. Of a
renderer whose work stands where its own progress can leave it (Work.inRange): after the next access or the next reading the work
stands so again, and what is left to compose gives the same memory. The work of a claim stands so at its start, with distinct
handles, and extents and runs that are not empty. -/
def Obligations.RendererProgressKeepsTheOutcome : Prop :=
  (∀ (s : State) (w : Work), s.renderer = .rendering w → w.inRange s →
    (∀ (a : Nat) (v : Byte), rendererRequest s = some ⟨a, some v⟩ →
      let w' := w.advance s (Memory.read s.mem a)
      let t : State := { s with mem := Memory.write s.mem a v, renderer := .rendering w' }
      composeRest t w' = composeRest s w ∧ w'.inRange t) ∧
    (∀ a : Nat, rendererRequest s = some ⟨a, none⟩ →
      let w' := w.advance s (Memory.read s.mem a)
      let t : State := { s with renderer := .rendering w' }
      composeRest t w' = composeRest s w ∧ w'.inRange t) ∧
    (s.atReading = true →
      let w' := w.read s
      let t : State := { s with renderer := .rendering w' }
      composeRest t w' = composeRest s w ∧ w'.inRange t)) ∧
  ∀ (s : State) (c : Chosen) (w : Work), 1 ≤ c.count * (s.headCfg.dots / 8) →
    (s.placements.Pairwise fun p q => p.handle ≠ q.handle) →
    (∀ p ∈ s.placements, 1 ≤ p.width ∧ 1 ≤ p.height ∧ p.hasCodes = true) →
    (claimBand c s).renderer = .rendering w → w.inRange (claimBand c s)

/-! ### The laws of the device -/

/-- R124, R135: every step keeps raster memory in its one canonical form, with no address outside 0000h to FFFFh. In a lawful state,
whose access in progress lies inside memory, every step goes on: none answers the fault addressOutsideMemory (log entry 14), and the
access in progress lies inside memory again. -/
def Obligations.EveryStepKeepsTheMemoryForm : Prop :=
  (∀ s t : State, s.mem.wf = true → step s = .next t → t.mem.wf = true) ∧
  State.reset.accessLawful ∧
  ∀ s : State, s.labelLawful → s.uploadLawful → s.accessLawful → ∃ t : State, step s = .next t ∧ t.accessLawful

/-- R151: every step keeps the law of the report queue: at most 16 records, and a read position of 0 to 7, 0 with the queue empty. -/
def Obligations.EveryStepKeepsTheReportQueueLaw : Prop :=
  ∀ s t : State, s.reports.lawful → step s = .next t → t.reports.lawful

/-- R163, R169, R166: every step keeps the parameter buffer within 48 bytes and the answer's position within the answer, and leaves a
command busy only while its PROOF copy goes on (the model takes and completes any other command in one step, log entry 6, where the
part may be busy for 20 microseconds); and both configurations lawful (R60, R64, R65, R99), with the zone inside memory, one
record for each band and a claim index that names a band. -/
def Obligations.EveryStepKeepsThePortAndConfigurationLaws : Prop :=
  ∀ s t : State, step s = .next t → (s.portLawful → t.portLawful) ∧ (s.configLawful → t.configLawful)

/-- R136 to R144: every step keeps the law of the upload channel, its cursor at the byte of the segment's span that is next among it,
and while a job is present no loaded segment over the band zone. -/
def Obligations.EveryStepKeepsTheUploadLaw : Prop :=
  ∀ s t : State, step s = .next t →
    (s.uploadLawful → t.uploadLawful) ∧ (s.zoneGuarded → t.zoneGuarded)

/-- R1, R3, R80: every step keeps the law of the job table, and the renderer within the commit row of an OPEN job; and while a job is
present its done row, its rendered row and its commit row do not fall, and its length and trailing rows stay. -/
def Obligations.EveryStepKeepsTheJobLaw : Prop :=
  ∀ s t : State, s.jobsLawful → step s = .next t → t.jobsLawful ∧
    ∀ (tag : Byte) (j k : Job), s.jobs.find tag = some j → t.jobs.find tag = some k →
      j.done ≤ k.done ∧ j.rendered ≤ k.rendered ∧ j.commitRow ≤ k.commitRow ∧ j.length = k.length ∧
        j.trailing = k.trailing

/-- R1, R24, R25, R47, R64, R66, R103 and R107: every step keeps the whole law of the label in work: configurations, port, glyph
store, jobs, placements, bands, renderer and head channel agree, and the bands stand in ring order (R66): one unbroken run of rows of
the front job and then of the back job, but for the PRINTING band of an ABORTING job (R70). The port's part of it holds a command
busy only while its PROOF copy goes on, which is log entry 6. -/
def Obligations.EveryStepKeepsTheLabelLaw : Prop :=
  ∀ s t : State, s.labelLawful → step s = .next t → t.labelLawful

/-- The machine right after reset meets every law above, the port's by log entry 6 (R5, R26, R60, R64, R99, R101, R136, R151, R176). -/
def Obligations.ResetIsLawful : Prop :=
  State.reset.mem.wf = true ∧ State.reset.reports.lawful ∧ State.reset.portLawful ∧ State.reset.configLawful ∧
    State.reset.uploadLawful ∧ State.reset.zoneGuarded ∧ State.reset.jobsLawful ∧ State.reset.labelLawful

/-- R64: in a lawful state at most one band is RENDERING and at most one is PRINTING. -/
def Obligations.OneRenderingAndOnePrintingBand : Prop :=
  ∀ s : State, s.labelLawful → ∀ (i k : Nat) (b c : Band), s.ring.bandAt i = some b → s.ring.bandAt k = some c →
    b.state = c.state → b.state ≠ .ready → i = k

/-- R110: no step begins a strobe pulse while HOT is asserted. R109, R110, R118 and R120: with no row waiting, each period takes one
from a shift, a pulse or a hot hold that has two or more left, and changes nothing else of the head channel; in the last one its end
comes as its row gives it (SHIFT_END, STROBE_PULSE_END, HOT_HOLD_EXPIRE), followed by the access, the ends and the grant of that
period (log entries 5 and 13), and by nothing where no client asks. A reading of the renderer takes no period. And no step leaves a
shift with more than 4 × (D + 1) periods, a pulse with more than the time of its pass, or a hot hold with more than its limit. -/
def Obligations.NoPulseBeginsWhileHot : Prop :=
  (∀ s t : State, step s = .next t → t.pulse ≠ none → t.pulse ≠ s.pulse → t.hot = false) ∧
  (∀ (s : State) (phase : LinePhase) (line : Line) (n : Nat), s.pending = [] → s.phase = .ready →
    s.head.mode = .inFlight phase line → phase.periods = some n →
    (s.atReading = true → ∃ t : State, step s = .next t ∧ t.head = s.head) ∧
    (s.atReading = false → 2 ≤ n → (∀ a ∈ s.arbiter.inProgress, a.addr < 65536) →
      (s.arbiter.inProgress = none → ∀ k r, requestOf s k = some r → r.addr < 65536) →
      ∃ t : State, step s = .next t ∧
        t.head = { s.head with mode := .inFlight (phase.withPeriods (n - 1)) line }) ∧
    (s.atReading = false → n ≤ 1 → ∃ u : State, exec phase.endRow s = .next u ∧
      ((grant u).accessInside = true → step s = .next (regrant (due (perform (grant u))))) ∧
      (u.quiet → (∀ k, requestOf u k = none) → u.composed = false → u.port.proof = none →
        (∀ line, u.head.mode ≠ .inFlight .fetch line) → step s = .next u))) ∧
  ∀ s t : State, s.labelLawful → step s = .next t →
    (∀ x ∈ s.head.mode.flight, ∀ n ∈ x.1.periods, n ≤ x.1.most s.headCfg) →
    ∀ x ∈ t.head.mode.flight, ∀ n ∈ x.1.periods, n ≤ x.1.most t.headCfg

/-- R130: with no rows arriving, a fetch completes within W + 1 periods, whatever the other clients ask for; the one access that may
precede it is not the renderer's, whose readings are steps of no time (log entry 5): a renderer's access in progress is left out
here. R128: with no access in progress the arbiter grants the fetch if it waits, the rotation unmoved, and otherwise the first
waiting client in rotating order (renderer, upload channel, command port, from the one after the rotation position on: R127), which
becomes the rotation position; with an access in progress it grants nothing. R131: a client
that waits stands behind at most two others in rotating order, and behind fewer after every rotating grant that is not its own, so
that at most two rotating grants precede its own. -/
def Obligations.FetchEndsWithinWPlusOnePeriods : Prop :=
  (∀ (s : State) (line : Line), s.phase = .ready → s.pending = [] → s.head.mode = .inFlight .fetch line →
      line.bytes = [] → s.head.latch = false → s.atReading = false → 1 ≤ s.headCfg.dots / 8 →
      line.addr + s.headCfg.dots / 8 ≤ 65536 →
      (∀ a ∈ s.arbiter.inProgress, a.addr < 65536 ∧ (a.live = true → a.client ≠ .rotating .renderer)) →
      ∃ k ≤ s.headCfg.dots / 8 + 1, ∃ t : State, Host.Core.run Sys2Proof.core k s = .next t ∧ t.readRegister 0x9 ≠ 0x03) ∧
  (∀ s : State,
    (s.arbiter.inProgress ≠ none → grant s = s) ∧
    (s.quiet →
      (∀ r, fetchRequest s = some r →
        grant s = { s with arbiter := ⟨some ⟨.fetch, r.addr, r.write, true⟩, s.arbiter.rotation⟩ }) ∧
      (fetchRequest s = none →
        (∀ (k : Rotating) (r : Request), requestOf s (.rotating k) = some r →
          (∀ i, Rotating.ahead s.arbiter.rotation i < Rotating.ahead s.arbiter.rotation k →
            requestOf s (.rotating i) = none) →
          grant s = { s with arbiter := ⟨some ⟨.rotating k, r.addr, r.write, true⟩, k⟩ }) ∧
        ((∀ k, requestOf s (.rotating k) = none) → grant s = s)))) ∧
  (∀ s : State, s.quiet → fetchRequest s = none →
    let waits : Rotating → Prop := fun k => (requestOf s (.rotating k)).isSome = true
    let granted : Rotating → Prop := fun k =>
      (grant s).arbiter.rotation = k ∧ (grant s).arbiter.inProgress.map Access.client = some (.rotating k)
    (s.arbiter.rotation = .port →
      (waits .renderer → granted .renderer) ∧ (¬ waits .renderer → waits .upload → granted .upload) ∧
      (¬ waits .renderer → ¬ waits .upload → waits .port → granted .port)) ∧
    (s.arbiter.rotation = .renderer →
      (waits .upload → granted .upload) ∧ (¬ waits .upload → waits .port → granted .port) ∧
      (¬ waits .upload → ¬ waits .port → waits .renderer → granted .renderer)) ∧
    (s.arbiter.rotation = .upload →
      (waits .port → granted .port) ∧ (¬ waits .port → waits .renderer → granted .renderer) ∧
      (¬ waits .port → ¬ waits .renderer → waits .upload → granted .upload))) ∧
  ∀ (s : State) (k i : Rotating) (a : Access), s.quiet → (requestOf s (.rotating k)).isSome = true →
    Rotating.ahead s.arbiter.rotation k ≤ 2 ∧
      ((grant s).arbiter.inProgress = some a → a.client = .rotating i → i ≠ k →
        Rotating.ahead (grant s).arbiter.rotation k < Rotating.ahead s.arbiter.rotation k)
end

