-- ==== Sys2Proof/Laws/State.lean ====
section
/-! SUPPORT. One lemma for each field under each update of the state, true by unfolding the update. -/

namespace Sys2Proof.Machine

variable (s : State)

/-! ### State.withSticky -/

@[simp] theorem State.withSticky_phase (f : Sticky → Sticky) : (s.withSticky f).phase = s.phase := rfl
@[simp] theorem State.withSticky_hot (f : Sticky → Sticky) : (s.withSticky f).hot = s.hot := rfl
@[simp] theorem State.withSticky_paper (f : Sticky → Sticky) : (s.withSticky f).paper = s.paper := rfl
@[simp] theorem State.withSticky_dataOut (f : Sticky → Sticky) : (s.withSticky f).dataOut = s.dataOut := rfl
@[simp] theorem State.withSticky_port (f : Sticky → Sticky) : (s.withSticky f).port =
    { s.port with sticky := f s.port.sticky } := rfl
@[simp] theorem State.withSticky_jobs (f : Sticky → Sticky) : (s.withSticky f).jobs = s.jobs := rfl
@[simp] theorem State.withSticky_placements (f : Sticky → Sticky) : (s.withSticky f).placements = s.placements := rfl
@[simp] theorem State.withSticky_glyphs (f : Sticky → Sticky) : (s.withSticky f).glyphs = s.glyphs := rfl
@[simp] theorem State.withSticky_ring (f : Sticky → Sticky) : (s.withSticky f).ring = s.ring := rfl
@[simp] theorem State.withSticky_renderer (f : Sticky → Sticky) : (s.withSticky f).renderer = s.renderer := rfl
@[simp] theorem State.withSticky_headCfg (f : Sticky → Sticky) : (s.withSticky f).headCfg = s.headCfg := rfl
@[simp] theorem State.withSticky_head (f : Sticky → Sticky) : (s.withSticky f).head = s.head := rfl
@[simp] theorem State.withSticky_mem (f : Sticky → Sticky) : (s.withSticky f).mem = s.mem := rfl
@[simp] theorem State.withSticky_arbiter (f : Sticky → Sticky) : (s.withSticky f).arbiter = s.arbiter := rfl
@[simp] theorem State.withSticky_upload (f : Sticky → Sticky) : (s.withSticky f).upload = s.upload := rfl
@[simp] theorem State.withSticky_reports (f : Sticky → Sticky) : (s.withSticky f).reports = s.reports := rfl
@[simp] theorem State.withSticky_irq (f : Sticky → Sticky) : (s.withSticky f).irq = s.irq := rfl
@[simp] theorem State.withSticky_pending (f : Sticky → Sticky) : (s.withSticky f).pending = s.pending := rfl

/-! ### State.setBand -/

@[simp] theorem State.setBand_phase (i : Nat) (b : Option Band) : (s.setBand i b).phase = s.phase := rfl
@[simp] theorem State.setBand_hot (i : Nat) (b : Option Band) : (s.setBand i b).hot = s.hot := rfl
@[simp] theorem State.setBand_paper (i : Nat) (b : Option Band) : (s.setBand i b).paper = s.paper := rfl
@[simp] theorem State.setBand_dataOut (i : Nat) (b : Option Band) : (s.setBand i b).dataOut = s.dataOut := rfl
@[simp] theorem State.setBand_port (i : Nat) (b : Option Band) : (s.setBand i b).port = s.port := rfl
@[simp] theorem State.setBand_jobs (i : Nat) (b : Option Band) : (s.setBand i b).jobs = s.jobs := rfl
@[simp] theorem State.setBand_placements (i : Nat) (b : Option Band) : (s.setBand i b).placements = s.placements := rfl
@[simp] theorem State.setBand_glyphs (i : Nat) (b : Option Band) : (s.setBand i b).glyphs = s.glyphs := rfl
@[simp] theorem State.setBand_ring (i : Nat) (b : Option Band) : (s.setBand i b).ring =
    { s.ring with bands := s.ring.bands.set i b } := rfl
@[simp] theorem State.setBand_renderer (i : Nat) (b : Option Band) : (s.setBand i b).renderer = s.renderer := rfl
@[simp] theorem State.setBand_headCfg (i : Nat) (b : Option Band) : (s.setBand i b).headCfg = s.headCfg := rfl
@[simp] theorem State.setBand_head (i : Nat) (b : Option Band) : (s.setBand i b).head = s.head := rfl
@[simp] theorem State.setBand_mem (i : Nat) (b : Option Band) : (s.setBand i b).mem = s.mem := rfl
@[simp] theorem State.setBand_arbiter (i : Nat) (b : Option Band) : (s.setBand i b).arbiter = s.arbiter := rfl
@[simp] theorem State.setBand_upload (i : Nat) (b : Option Band) : (s.setBand i b).upload = s.upload := rfl
@[simp] theorem State.setBand_reports (i : Nat) (b : Option Band) : (s.setBand i b).reports = s.reports := rfl
@[simp] theorem State.setBand_irq (i : Nat) (b : Option Band) : (s.setBand i b).irq = s.irq := rfl
@[simp] theorem State.setBand_pending (i : Nat) (b : Option Band) : (s.setBand i b).pending = s.pending := rfl

/-! ### State.updateFront -/

@[simp] theorem State.updateFront_phase (f : Job → Job) : (s.updateFront f).phase = s.phase := rfl
@[simp] theorem State.updateFront_hot (f : Job → Job) : (s.updateFront f).hot = s.hot := rfl
@[simp] theorem State.updateFront_paper (f : Job → Job) : (s.updateFront f).paper = s.paper := rfl
@[simp] theorem State.updateFront_dataOut (f : Job → Job) : (s.updateFront f).dataOut = s.dataOut := rfl
@[simp] theorem State.updateFront_port (f : Job → Job) : (s.updateFront f).port = s.port := rfl
@[simp] theorem State.updateFront_jobs (f : Job → Job) : (s.updateFront f).jobs =
    { s.jobs with front := s.jobs.front.map f } := rfl
@[simp] theorem State.updateFront_placements (f : Job → Job) : (s.updateFront f).placements = s.placements := rfl
@[simp] theorem State.updateFront_glyphs (f : Job → Job) : (s.updateFront f).glyphs = s.glyphs := rfl
@[simp] theorem State.updateFront_ring (f : Job → Job) : (s.updateFront f).ring = s.ring := rfl
@[simp] theorem State.updateFront_renderer (f : Job → Job) : (s.updateFront f).renderer = s.renderer := rfl
@[simp] theorem State.updateFront_headCfg (f : Job → Job) : (s.updateFront f).headCfg = s.headCfg := rfl
@[simp] theorem State.updateFront_head (f : Job → Job) : (s.updateFront f).head = s.head := rfl
@[simp] theorem State.updateFront_mem (f : Job → Job) : (s.updateFront f).mem = s.mem := rfl
@[simp] theorem State.updateFront_arbiter (f : Job → Job) : (s.updateFront f).arbiter = s.arbiter := rfl
@[simp] theorem State.updateFront_upload (f : Job → Job) : (s.updateFront f).upload = s.upload := rfl
@[simp] theorem State.updateFront_reports (f : Job → Job) : (s.updateFront f).reports = s.reports := rfl
@[simp] theorem State.updateFront_irq (f : Job → Job) : (s.updateFront f).irq = s.irq := rfl
@[simp] theorem State.updateFront_pending (f : Job → Job) : (s.updateFront f).pending = s.pending := rfl

/-! ### State.advanceDone -/

@[simp] theorem State.advanceDone_phase : (s.advanceDone).phase = s.phase := rfl
@[simp] theorem State.advanceDone_hot : (s.advanceDone).hot = s.hot := rfl
@[simp] theorem State.advanceDone_paper : (s.advanceDone).paper = s.paper := rfl
@[simp] theorem State.advanceDone_dataOut : (s.advanceDone).dataOut = s.dataOut := rfl
@[simp] theorem State.advanceDone_port : (s.advanceDone).port = s.port := rfl
@[simp] theorem State.advanceDone_jobs : (s.advanceDone).jobs =
    { s.jobs with front := s.jobs.front.map fun j => { j with done := j.done + 1 } } := rfl
@[simp] theorem State.advanceDone_placements : (s.advanceDone).placements = s.placements := rfl
@[simp] theorem State.advanceDone_glyphs : (s.advanceDone).glyphs = s.glyphs := rfl
@[simp] theorem State.advanceDone_ring : (s.advanceDone).ring = s.ring := rfl
@[simp] theorem State.advanceDone_renderer : (s.advanceDone).renderer = s.renderer := rfl
@[simp] theorem State.advanceDone_headCfg : (s.advanceDone).headCfg = s.headCfg := rfl
@[simp] theorem State.advanceDone_head : (s.advanceDone).head = s.head := rfl
@[simp] theorem State.advanceDone_mem : (s.advanceDone).mem = s.mem := rfl
@[simp] theorem State.advanceDone_arbiter : (s.advanceDone).arbiter = s.arbiter := rfl
@[simp] theorem State.advanceDone_upload : (s.advanceDone).upload = s.upload := rfl
@[simp] theorem State.advanceDone_reports : (s.advanceDone).reports = s.reports := rfl
@[simp] theorem State.advanceDone_irq : (s.advanceDone).irq = s.irq := rfl
@[simp] theorem State.advanceDone_pending : (s.advanceDone).pending = s.pending := rfl

/-! ### State.advanceBlank -/

@[simp] theorem State.advanceBlank_phase : (s.advanceBlank).phase = s.phase := rfl
@[simp] theorem State.advanceBlank_hot : (s.advanceBlank).hot = s.hot := rfl
@[simp] theorem State.advanceBlank_paper : (s.advanceBlank).paper = s.paper := rfl
@[simp] theorem State.advanceBlank_dataOut : (s.advanceBlank).dataOut = s.dataOut := rfl
@[simp] theorem State.advanceBlank_port : (s.advanceBlank).port = s.port := rfl
@[simp] theorem State.advanceBlank_jobs : (s.advanceBlank).jobs =
    { s.jobs with front := s.jobs.front.map fun j => { j with done := j.done + 1, blankRows := j.blankRows + 1 } } := rfl
@[simp] theorem State.advanceBlank_placements : (s.advanceBlank).placements = s.placements := rfl
@[simp] theorem State.advanceBlank_glyphs : (s.advanceBlank).glyphs = s.glyphs := rfl
@[simp] theorem State.advanceBlank_ring : (s.advanceBlank).ring = s.ring := rfl
@[simp] theorem State.advanceBlank_renderer : (s.advanceBlank).renderer = s.renderer := rfl
@[simp] theorem State.advanceBlank_headCfg : (s.advanceBlank).headCfg = s.headCfg := rfl
@[simp] theorem State.advanceBlank_head : (s.advanceBlank).head = s.head := rfl
@[simp] theorem State.advanceBlank_mem : (s.advanceBlank).mem = s.mem := rfl
@[simp] theorem State.advanceBlank_arbiter : (s.advanceBlank).arbiter = s.arbiter := rfl
@[simp] theorem State.advanceBlank_upload : (s.advanceBlank).upload = s.upload := rfl
@[simp] theorem State.advanceBlank_reports : (s.advanceBlank).reports = s.reports := rfl
@[simp] theorem State.advanceBlank_irq : (s.advanceBlank).irq = s.irq := rfl
@[simp] theorem State.advanceBlank_pending : (s.advanceBlank).pending = s.pending := rfl

/-! ### State.freePlacements -/

@[simp] theorem State.freePlacements_phase (tag : Byte) : (s.freePlacements tag).phase = s.phase := rfl
@[simp] theorem State.freePlacements_hot (tag : Byte) : (s.freePlacements tag).hot = s.hot := rfl
@[simp] theorem State.freePlacements_paper (tag : Byte) : (s.freePlacements tag).paper = s.paper := rfl
@[simp] theorem State.freePlacements_dataOut (tag : Byte) : (s.freePlacements tag).dataOut = s.dataOut := rfl
@[simp] theorem State.freePlacements_port (tag : Byte) : (s.freePlacements tag).port = s.port := rfl
@[simp] theorem State.freePlacements_jobs (tag : Byte) : (s.freePlacements tag).jobs = s.jobs := rfl
@[simp] theorem State.freePlacements_placements (tag : Byte) : (s.freePlacements tag).placements =
    s.placements.filter fun p => decide (p.job ≠ tag) := rfl
@[simp] theorem State.freePlacements_glyphs (tag : Byte) : (s.freePlacements tag).glyphs = s.glyphs := rfl
@[simp] theorem State.freePlacements_ring (tag : Byte) : (s.freePlacements tag).ring = s.ring := rfl
@[simp] theorem State.freePlacements_renderer (tag : Byte) : (s.freePlacements tag).renderer = s.renderer := rfl
@[simp] theorem State.freePlacements_headCfg (tag : Byte) : (s.freePlacements tag).headCfg = s.headCfg := rfl
@[simp] theorem State.freePlacements_head (tag : Byte) : (s.freePlacements tag).head = s.head := rfl
@[simp] theorem State.freePlacements_mem (tag : Byte) : (s.freePlacements tag).mem = s.mem := rfl
@[simp] theorem State.freePlacements_arbiter (tag : Byte) : (s.freePlacements tag).arbiter = s.arbiter := rfl
@[simp] theorem State.freePlacements_upload (tag : Byte) : (s.freePlacements tag).upload = s.upload := rfl
@[simp] theorem State.freePlacements_reports (tag : Byte) : (s.freePlacements tag).reports = s.reports := rfl
@[simp] theorem State.freePlacements_irq (tag : Byte) : (s.freePlacements tag).irq = s.irq := rfl
@[simp] theorem State.freePlacements_pending (tag : Byte) : (s.freePlacements tag).pending = s.pending := rfl

/-! ### State.freeJobBands -/

@[simp] theorem State.freeJobBands_phase (tag : Byte) (keep : Bool) : (s.freeJobBands tag keep).phase = s.phase := rfl
@[simp] theorem State.freeJobBands_hot (tag : Byte) (keep : Bool) : (s.freeJobBands tag keep).hot = s.hot := rfl
@[simp] theorem State.freeJobBands_paper (tag : Byte) (keep : Bool) : (s.freeJobBands tag keep).paper = s.paper := rfl
@[simp] theorem State.freeJobBands_dataOut (tag : Byte) (keep : Bool) : (s.freeJobBands tag keep).dataOut = s.dataOut := rfl
@[simp] theorem State.freeJobBands_port (tag : Byte) (keep : Bool) : (s.freeJobBands tag keep).port = s.port := rfl
@[simp] theorem State.freeJobBands_jobs (tag : Byte) (keep : Bool) : (s.freeJobBands tag keep).jobs = s.jobs := rfl
@[simp] theorem State.freeJobBands_placements (tag : Byte) (keep : Bool) : (s.freeJobBands tag keep).placements = s.placements := rfl
@[simp] theorem State.freeJobBands_glyphs (tag : Byte) (keep : Bool) : (s.freeJobBands tag keep).glyphs = s.glyphs := rfl
@[simp] theorem State.freeJobBands_ring (tag : Byte) (keep : Bool) : (s.freeJobBands tag keep).ring =
    (s.ring.freeBands tag keep).setBack := rfl
@[simp] theorem State.freeJobBands_renderer (tag : Byte) (keep : Bool) : (s.freeJobBands tag keep).renderer = s.renderer := rfl
@[simp] theorem State.freeJobBands_headCfg (tag : Byte) (keep : Bool) : (s.freeJobBands tag keep).headCfg = s.headCfg := rfl
@[simp] theorem State.freeJobBands_head (tag : Byte) (keep : Bool) : (s.freeJobBands tag keep).head = s.head := rfl
@[simp] theorem State.freeJobBands_mem (tag : Byte) (keep : Bool) : (s.freeJobBands tag keep).mem = s.mem := rfl
@[simp] theorem State.freeJobBands_arbiter (tag : Byte) (keep : Bool) : (s.freeJobBands tag keep).arbiter = s.arbiter := rfl
@[simp] theorem State.freeJobBands_upload (tag : Byte) (keep : Bool) : (s.freeJobBands tag keep).upload = s.upload := rfl
@[simp] theorem State.freeJobBands_reports (tag : Byte) (keep : Bool) : (s.freeJobBands tag keep).reports = s.reports := rfl
@[simp] theorem State.freeJobBands_irq (tag : Byte) (keep : Bool) : (s.freeJobBands tag keep).irq = s.irq := rfl
@[simp] theorem State.freeJobBands_pending (tag : Byte) (keep : Bool) : (s.freeJobBands tag keep).pending = s.pending := rfl

/-! ### State.orphan -/

@[simp] theorem State.orphan_phase (c : Client) : (s.orphan c).phase = s.phase := rfl
@[simp] theorem State.orphan_hot (c : Client) : (s.orphan c).hot = s.hot := rfl
@[simp] theorem State.orphan_paper (c : Client) : (s.orphan c).paper = s.paper := rfl
@[simp] theorem State.orphan_dataOut (c : Client) : (s.orphan c).dataOut = s.dataOut := rfl
@[simp] theorem State.orphan_port (c : Client) : (s.orphan c).port = s.port := rfl
@[simp] theorem State.orphan_jobs (c : Client) : (s.orphan c).jobs = s.jobs := rfl
@[simp] theorem State.orphan_placements (c : Client) : (s.orphan c).placements = s.placements := rfl
@[simp] theorem State.orphan_glyphs (c : Client) : (s.orphan c).glyphs = s.glyphs := rfl
@[simp] theorem State.orphan_ring (c : Client) : (s.orphan c).ring = s.ring := rfl
@[simp] theorem State.orphan_renderer (c : Client) : (s.orphan c).renderer = s.renderer := rfl
@[simp] theorem State.orphan_headCfg (c : Client) : (s.orphan c).headCfg = s.headCfg := rfl
@[simp] theorem State.orphan_head (c : Client) : (s.orphan c).head = s.head := rfl
@[simp] theorem State.orphan_mem (c : Client) : (s.orphan c).mem = s.mem := rfl
@[simp] theorem State.orphan_arbiter (c : Client) : (s.orphan c).arbiter =
    { s.arbiter with
      inProgress := s.arbiter.inProgress.map fun a => if a.client = c then { a with live := false } else a } := rfl
@[simp] theorem State.orphan_upload (c : Client) : (s.orphan c).upload = s.upload := rfl
@[simp] theorem State.orphan_reports (c : Client) : (s.orphan c).reports = s.reports := rfl
@[simp] theorem State.orphan_irq (c : Client) : (s.orphan c).irq = s.irq := rfl
@[simp] theorem State.orphan_pending (c : Client) : (s.orphan c).pending = s.pending := rfl

/-! ### State.clearHistory -/

@[simp] theorem State.clearHistory_phase : (s.clearHistory).phase = s.phase := rfl
@[simp] theorem State.clearHistory_hot : (s.clearHistory).hot = s.hot := rfl
@[simp] theorem State.clearHistory_paper : (s.clearHistory).paper = s.paper := rfl
@[simp] theorem State.clearHistory_dataOut : (s.clearHistory).dataOut = s.dataOut := rfl
@[simp] theorem State.clearHistory_port : (s.clearHistory).port = s.port := rfl
@[simp] theorem State.clearHistory_jobs : (s.clearHistory).jobs = s.jobs := rfl
@[simp] theorem State.clearHistory_placements : (s.clearHistory).placements = s.placements := rfl
@[simp] theorem State.clearHistory_glyphs : (s.clearHistory).glyphs = s.glyphs := rfl
@[simp] theorem State.clearHistory_ring : (s.clearHistory).ring = s.ring := rfl
@[simp] theorem State.clearHistory_renderer : (s.clearHistory).renderer = s.renderer := rfl
@[simp] theorem State.clearHistory_headCfg : (s.clearHistory).headCfg = s.headCfg := rfl
@[simp] theorem State.clearHistory_head : (s.clearHistory).head =
    { s.head with history := List.replicate s.headCfg.lineBytes 0x00 } := rfl
@[simp] theorem State.clearHistory_mem : (s.clearHistory).mem = s.mem := rfl
@[simp] theorem State.clearHistory_arbiter : (s.clearHistory).arbiter = s.arbiter := rfl
@[simp] theorem State.clearHistory_upload : (s.clearHistory).upload = s.upload := rfl
@[simp] theorem State.clearHistory_reports : (s.clearHistory).reports = s.reports := rfl
@[simp] theorem State.clearHistory_irq : (s.clearHistory).irq = s.irq := rfl
@[simp] theorem State.clearHistory_pending : (s.clearHistory).pending = s.pending := rfl

/-! ### State.withMode -/

@[simp] theorem State.withMode_phase (m : HeadMode) : (s.withMode m).phase = s.phase := rfl
@[simp] theorem State.withMode_hot (m : HeadMode) : (s.withMode m).hot = s.hot := rfl
@[simp] theorem State.withMode_paper (m : HeadMode) : (s.withMode m).paper = s.paper := rfl
@[simp] theorem State.withMode_dataOut (m : HeadMode) : (s.withMode m).dataOut = s.dataOut := rfl
@[simp] theorem State.withMode_port (m : HeadMode) : (s.withMode m).port = s.port := rfl
@[simp] theorem State.withMode_jobs (m : HeadMode) : (s.withMode m).jobs = s.jobs := rfl
@[simp] theorem State.withMode_placements (m : HeadMode) : (s.withMode m).placements = s.placements := rfl
@[simp] theorem State.withMode_glyphs (m : HeadMode) : (s.withMode m).glyphs = s.glyphs := rfl
@[simp] theorem State.withMode_ring (m : HeadMode) : (s.withMode m).ring = s.ring := rfl
@[simp] theorem State.withMode_renderer (m : HeadMode) : (s.withMode m).renderer = s.renderer := rfl
@[simp] theorem State.withMode_headCfg (m : HeadMode) : (s.withMode m).headCfg = s.headCfg := rfl
@[simp] theorem State.withMode_head (m : HeadMode) : (s.withMode m).head =
    { s.head with mode := m } := rfl
@[simp] theorem State.withMode_mem (m : HeadMode) : (s.withMode m).mem = s.mem := rfl
@[simp] theorem State.withMode_arbiter (m : HeadMode) : (s.withMode m).arbiter = s.arbiter := rfl
@[simp] theorem State.withMode_upload (m : HeadMode) : (s.withMode m).upload = s.upload := rfl
@[simp] theorem State.withMode_reports (m : HeadMode) : (s.withMode m).reports = s.reports := rfl
@[simp] theorem State.withMode_irq (m : HeadMode) : (s.withMode m).irq = s.irq := rfl
@[simp] theorem State.withMode_pending (m : HeadMode) : (s.withMode m).pending = s.pending := rfl

/-! ### State.served -/

@[simp] theorem State.served_phase (k : Rotating) : (s.served k).phase = s.phase := rfl
@[simp] theorem State.served_hot (k : Rotating) : (s.served k).hot = s.hot := rfl
@[simp] theorem State.served_paper (k : Rotating) : (s.served k).paper = s.paper := rfl
@[simp] theorem State.served_dataOut (k : Rotating) : (s.served k).dataOut = s.dataOut := rfl
@[simp] theorem State.served_port (k : Rotating) : (s.served k).port = s.port := rfl
@[simp] theorem State.served_jobs (k : Rotating) : (s.served k).jobs = s.jobs := rfl
@[simp] theorem State.served_placements (k : Rotating) : (s.served k).placements = s.placements := rfl
@[simp] theorem State.served_glyphs (k : Rotating) : (s.served k).glyphs = s.glyphs := rfl
@[simp] theorem State.served_ring (k : Rotating) : (s.served k).ring = s.ring := rfl
@[simp] theorem State.served_renderer (k : Rotating) : (s.served k).renderer = s.renderer := rfl
@[simp] theorem State.served_headCfg (k : Rotating) : (s.served k).headCfg = s.headCfg := rfl
@[simp] theorem State.served_head (k : Rotating) : (s.served k).head = s.head := rfl
@[simp] theorem State.served_mem (k : Rotating) : (s.served k).mem = s.mem := rfl
@[simp] theorem State.served_arbiter (k : Rotating) : (s.served k).arbiter =
    { s.arbiter with rotation := k } := rfl
@[simp] theorem State.served_upload (k : Rotating) : (s.served k).upload = s.upload := rfl
@[simp] theorem State.served_reports (k : Rotating) : (s.served k).reports = s.reports := rfl
@[simp] theorem State.served_irq (k : Rotating) : (s.served k).irq = s.irq := rfl
@[simp] theorem State.served_pending (k : Rotating) : (s.served k).pending = s.pending := rfl

/-! ### State.restServed -/

@[simp] theorem State.restServed_phase (left : Bool) (k : Rotating) : (s.restServed left k).phase = s.phase := rfl
@[simp] theorem State.restServed_hot (left : Bool) (k : Rotating) : (s.restServed left k).hot = s.hot := rfl
@[simp] theorem State.restServed_paper (left : Bool) (k : Rotating) : (s.restServed left k).paper = s.paper := rfl
@[simp] theorem State.restServed_dataOut (left : Bool) (k : Rotating) : (s.restServed left k).dataOut = s.dataOut := rfl
@[simp] theorem State.restServed_port (left : Bool) (k : Rotating) : (s.restServed left k).port = s.port := rfl
@[simp] theorem State.restServed_jobs (left : Bool) (k : Rotating) : (s.restServed left k).jobs = s.jobs := rfl
@[simp] theorem State.restServed_placements (left : Bool) (k : Rotating) : (s.restServed left k).placements = s.placements := rfl
@[simp] theorem State.restServed_glyphs (left : Bool) (k : Rotating) : (s.restServed left k).glyphs = s.glyphs := rfl
@[simp] theorem State.restServed_ring (left : Bool) (k : Rotating) : (s.restServed left k).ring = s.ring := rfl
@[simp] theorem State.restServed_renderer (left : Bool) (k : Rotating) : (s.restServed left k).renderer = s.renderer := rfl
@[simp] theorem State.restServed_headCfg (left : Bool) (k : Rotating) : (s.restServed left k).headCfg = s.headCfg := rfl
@[simp] theorem State.restServed_head (left : Bool) (k : Rotating) : (s.restServed left k).head = s.head := rfl
@[simp] theorem State.restServed_mem (left : Bool) (k : Rotating) : (s.restServed left k).mem = s.mem := rfl
@[simp] theorem State.restServed_arbiter (left : Bool) (k : Rotating) : (s.restServed left k).arbiter =
    { s.arbiter with rotation := if left then k else s.arbiter.rotation } := rfl
@[simp] theorem State.restServed_upload (left : Bool) (k : Rotating) : (s.restServed left k).upload = s.upload := rfl
@[simp] theorem State.restServed_reports (left : Bool) (k : Rotating) : (s.restServed left k).reports = s.reports := rfl
@[simp] theorem State.restServed_irq (left : Bool) (k : Rotating) : (s.restServed left k).irq = s.irq := rfl
@[simp] theorem State.restServed_pending (left : Bool) (k : Rotating) : (s.restServed left k).pending = s.pending := rfl

/-! ### State.latchInput -/

@[simp] theorem State.latchInput_phase : (s.latchInput).phase = s.phase := rfl
@[simp] theorem State.latchInput_hot : (s.latchInput).hot = s.hot := rfl
@[simp] theorem State.latchInput_paper : (s.latchInput).paper = s.paper := rfl
@[simp] theorem State.latchInput_dataOut : (s.latchInput).dataOut = s.dataOut := rfl
@[simp] theorem State.latchInput_port : (s.latchInput).port = s.port := rfl
@[simp] theorem State.latchInput_jobs : (s.latchInput).jobs = s.jobs := rfl
@[simp] theorem State.latchInput_placements : (s.latchInput).placements = s.placements := rfl
@[simp] theorem State.latchInput_glyphs : (s.latchInput).glyphs = s.glyphs := rfl
@[simp] theorem State.latchInput_ring : (s.latchInput).ring = s.ring := rfl
@[simp] theorem State.latchInput_renderer : (s.latchInput).renderer = s.renderer := rfl
@[simp] theorem State.latchInput_headCfg : (s.latchInput).headCfg = s.headCfg := rfl
@[simp] theorem State.latchInput_head : (s.latchInput).head = s.head := rfl
@[simp] theorem State.latchInput_mem : (s.latchInput).mem = s.mem := rfl
@[simp] theorem State.latchInput_arbiter : (s.latchInput).arbiter = s.arbiter := rfl
@[simp] theorem State.latchInput_upload : (s.latchInput).upload = s.upload := rfl
@[simp] theorem State.latchInput_reports : (s.latchInput).reports = s.reports := rfl
@[simp] theorem State.latchInput_irq : (s.latchInput).irq =
    { s.irq with input := true, seenHot := s.hot, seenPaper := s.paper } := rfl
@[simp] theorem State.latchInput_pending : (s.latchInput).pending = s.pending := rfl

/-! ### take -/

@[simp] theorem take_phase (code : Byte) : (take code s).phase = s.phase := rfl
@[simp] theorem take_hot (code : Byte) : (take code s).hot = s.hot := rfl
@[simp] theorem take_paper (code : Byte) : (take code s).paper = s.paper := rfl
@[simp] theorem take_dataOut (code : Byte) : (take code s).dataOut = s.dataOut := rfl
@[simp] theorem take_port (code : Byte) : (take code s).port =
    { s.port with params := [], answer := [], answerPos := 0, busy := true, cmd := code } := rfl
@[simp] theorem take_jobs (code : Byte) : (take code s).jobs = s.jobs := rfl
@[simp] theorem take_placements (code : Byte) : (take code s).placements = s.placements := rfl
@[simp] theorem take_glyphs (code : Byte) : (take code s).glyphs = s.glyphs := rfl
@[simp] theorem take_ring (code : Byte) : (take code s).ring = s.ring := rfl
@[simp] theorem take_renderer (code : Byte) : (take code s).renderer = s.renderer := rfl
@[simp] theorem take_headCfg (code : Byte) : (take code s).headCfg = s.headCfg := rfl
@[simp] theorem take_head (code : Byte) : (take code s).head = s.head := rfl
@[simp] theorem take_mem (code : Byte) : (take code s).mem = s.mem := rfl
@[simp] theorem take_arbiter (code : Byte) : (take code s).arbiter = s.arbiter := rfl
@[simp] theorem take_upload (code : Byte) : (take code s).upload = s.upload := rfl
@[simp] theorem take_reports (code : Byte) : (take code s).reports = s.reports := rfl
@[simp] theorem take_irq (code : Byte) : (take code s).irq = s.irq := rfl
@[simp] theorem take_pending (code : Byte) : (take code s).pending = s.pending := rfl

/-! ### complete -/

@[simp] theorem complete_phase (r : Reply) : (complete r s).phase = s.phase := rfl
@[simp] theorem complete_hot (r : Reply) : (complete r s).hot = s.hot := rfl
@[simp] theorem complete_paper (r : Reply) : (complete r s).paper = s.paper := rfl
@[simp] theorem complete_dataOut (r : Reply) : (complete r s).dataOut = s.dataOut := rfl
@[simp] theorem complete_port (r : Reply) : (complete r s).port =
    { s.port with result := r.result, answer := r.answer, answerPos := 0, busy := false } := rfl
@[simp] theorem complete_jobs (r : Reply) : (complete r s).jobs = s.jobs := rfl
@[simp] theorem complete_placements (r : Reply) : (complete r s).placements = s.placements := rfl
@[simp] theorem complete_glyphs (r : Reply) : (complete r s).glyphs = s.glyphs := rfl
@[simp] theorem complete_ring (r : Reply) : (complete r s).ring = s.ring := rfl
@[simp] theorem complete_renderer (r : Reply) : (complete r s).renderer = s.renderer := rfl
@[simp] theorem complete_headCfg (r : Reply) : (complete r s).headCfg = s.headCfg := rfl
@[simp] theorem complete_head (r : Reply) : (complete r s).head = s.head := rfl
@[simp] theorem complete_mem (r : Reply) : (complete r s).mem = s.mem := rfl
@[simp] theorem complete_arbiter (r : Reply) : (complete r s).arbiter = s.arbiter := rfl
@[simp] theorem complete_upload (r : Reply) : (complete r s).upload = s.upload := rfl
@[simp] theorem complete_reports (r : Reply) : (complete r s).reports = s.reports := rfl
@[simp] theorem complete_irq (r : Reply) : (complete r s).irq =
    { s.irq with done := true } := rfl
@[simp] theorem complete_pending (r : Reply) : (complete r s).pending = s.pending := rfl

/-! ### State.answered -/

@[simp] theorem State.answered_phase (code : Byte) (r : ResultCode) (answer : List Byte) : (s.answered code r answer).phase = s.phase := rfl
@[simp] theorem State.answered_hot (code : Byte) (r : ResultCode) (answer : List Byte) : (s.answered code r answer).hot = s.hot := rfl
@[simp] theorem State.answered_paper (code : Byte) (r : ResultCode) (answer : List Byte) : (s.answered code r answer).paper = s.paper := rfl
@[simp] theorem State.answered_dataOut (code : Byte) (r : ResultCode) (answer : List Byte) : (s.answered code r answer).dataOut = s.dataOut := rfl
@[simp] theorem State.answered_port (code : Byte) (r : ResultCode) (answer : List Byte) : (s.answered code r answer).port =
    { s.port with
      params := [], answer := answer, answerPos := 0, result := r, cmd := code, busy := false } := rfl
@[simp] theorem State.answered_jobs (code : Byte) (r : ResultCode) (answer : List Byte) : (s.answered code r answer).jobs = s.jobs := rfl
@[simp] theorem State.answered_placements (code : Byte) (r : ResultCode) (answer : List Byte) : (s.answered code r answer).placements = s.placements := rfl
@[simp] theorem State.answered_glyphs (code : Byte) (r : ResultCode) (answer : List Byte) : (s.answered code r answer).glyphs = s.glyphs := rfl
@[simp] theorem State.answered_ring (code : Byte) (r : ResultCode) (answer : List Byte) : (s.answered code r answer).ring = s.ring := rfl
@[simp] theorem State.answered_renderer (code : Byte) (r : ResultCode) (answer : List Byte) : (s.answered code r answer).renderer = s.renderer := rfl
@[simp] theorem State.answered_headCfg (code : Byte) (r : ResultCode) (answer : List Byte) : (s.answered code r answer).headCfg = s.headCfg := rfl
@[simp] theorem State.answered_head (code : Byte) (r : ResultCode) (answer : List Byte) : (s.answered code r answer).head = s.head := rfl
@[simp] theorem State.answered_mem (code : Byte) (r : ResultCode) (answer : List Byte) : (s.answered code r answer).mem = s.mem := rfl
@[simp] theorem State.answered_arbiter (code : Byte) (r : ResultCode) (answer : List Byte) : (s.answered code r answer).arbiter = s.arbiter := rfl
@[simp] theorem State.answered_upload (code : Byte) (r : ResultCode) (answer : List Byte) : (s.answered code r answer).upload = s.upload := rfl
@[simp] theorem State.answered_reports (code : Byte) (r : ResultCode) (answer : List Byte) : (s.answered code r answer).reports = s.reports := rfl
@[simp] theorem State.answered_irq (code : Byte) (r : ResultCode) (answer : List Byte) : (s.answered code r answer).irq =
    { s.irq with done := true } := rfl
@[simp] theorem State.answered_pending (code : Byte) (r : ResultCode) (answer : List Byte) : (s.answered code r answer).pending = s.pending := rfl

/-! ### grantTo -/

@[simp] theorem grantTo_phase (c : Client) (r : Request) : (grantTo c r s).phase = s.phase := rfl
@[simp] theorem grantTo_hot (c : Client) (r : Request) : (grantTo c r s).hot = s.hot := rfl
@[simp] theorem grantTo_paper (c : Client) (r : Request) : (grantTo c r s).paper = s.paper := rfl
@[simp] theorem grantTo_dataOut (c : Client) (r : Request) : (grantTo c r s).dataOut = s.dataOut := rfl
@[simp] theorem grantTo_port (c : Client) (r : Request) : (grantTo c r s).port = s.port := rfl
@[simp] theorem grantTo_jobs (c : Client) (r : Request) : (grantTo c r s).jobs = s.jobs := rfl
@[simp] theorem grantTo_placements (c : Client) (r : Request) : (grantTo c r s).placements = s.placements := rfl
@[simp] theorem grantTo_glyphs (c : Client) (r : Request) : (grantTo c r s).glyphs = s.glyphs := rfl
@[simp] theorem grantTo_ring (c : Client) (r : Request) : (grantTo c r s).ring = s.ring := rfl
@[simp] theorem grantTo_renderer (c : Client) (r : Request) : (grantTo c r s).renderer = s.renderer := rfl
@[simp] theorem grantTo_headCfg (c : Client) (r : Request) : (grantTo c r s).headCfg = s.headCfg := rfl
@[simp] theorem grantTo_head (c : Client) (r : Request) : (grantTo c r s).head = s.head := rfl
@[simp] theorem grantTo_mem (c : Client) (r : Request) : (grantTo c r s).mem = s.mem := rfl
@[simp] theorem grantTo_arbiter (c : Client) (r : Request) : (grantTo c r s).arbiter =
    { inProgress := some ⟨c, r.addr, r.write, true⟩
      rotation := match c with
        | .fetch => s.arbiter.rotation
        | .rotating k => k } := rfl
@[simp] theorem grantTo_upload (c : Client) (r : Request) : (grantTo c r s).upload = s.upload := rfl
@[simp] theorem grantTo_reports (c : Client) (r : Request) : (grantTo c r s).reports = s.reports := rfl
@[simp] theorem grantTo_irq (c : Client) (r : Request) : (grantTo c r s).irq = s.irq := rfl
@[simp] theorem grantTo_pending (c : Client) (r : Request) : (grantTo c r s).pending = s.pending := rfl

/-! ### claimBand -/

@[simp] theorem claimBand_phase (c : Chosen) : (claimBand c s).phase = s.phase := rfl
@[simp] theorem claimBand_hot (c : Chosen) : (claimBand c s).hot = s.hot := rfl
@[simp] theorem claimBand_paper (c : Chosen) : (claimBand c s).paper = s.paper := rfl
@[simp] theorem claimBand_dataOut (c : Chosen) : (claimBand c s).dataOut = s.dataOut := rfl
@[simp] theorem claimBand_port (c : Chosen) : (claimBand c s).port = s.port := rfl
@[simp] theorem claimBand_jobs (c : Chosen) : (claimBand c s).jobs = s.jobs := rfl
@[simp] theorem claimBand_placements (c : Chosen) : (claimBand c s).placements =
    s.placements.map fun p => if inDrawList c p then { p with active := true } else p := rfl
@[simp] theorem claimBand_glyphs (c : Chosen) : (claimBand c s).glyphs = s.glyphs := rfl
@[simp] theorem claimBand_ring (c : Chosen) : (claimBand c s).ring =
    { s.ring with
      bands := s.ring.bands.set s.ring.claim (some ⟨.rendering, c.job, c.first, c.count⟩)
      claim := (s.ring.claim + 1) % s.ring.n } := rfl
@[simp] theorem claimBand_headCfg (c : Chosen) : (claimBand c s).headCfg = s.headCfg := rfl
@[simp] theorem claimBand_head (c : Chosen) : (claimBand c s).head = s.head := rfl
@[simp] theorem claimBand_mem (c : Chosen) : (claimBand c s).mem = s.mem := rfl
@[simp] theorem claimBand_arbiter (c : Chosen) : (claimBand c s).arbiter = s.arbiter := rfl
@[simp] theorem claimBand_upload (c : Chosen) : (claimBand c s).upload = s.upload := rfl
@[simp] theorem claimBand_reports (c : Chosen) : (claimBand c s).reports = s.reports := rfl
@[simp] theorem claimBand_irq (c : Chosen) : (claimBand c s).irq = s.irq := rfl
@[simp] theorem claimBand_pending (c : Chosen) : (claimBand c s).pending = s.pending := rfl

/-! ### placeAct -/

@[simp] theorem placeAct_phase (p : Placement) : (placeAct p s).phase = s.phase := rfl
@[simp] theorem placeAct_hot (p : Placement) : (placeAct p s).hot = s.hot := rfl
@[simp] theorem placeAct_paper (p : Placement) : (placeAct p s).paper = s.paper := rfl
@[simp] theorem placeAct_dataOut (p : Placement) : (placeAct p s).dataOut = s.dataOut := rfl
@[simp] theorem placeAct_port (p : Placement) : (placeAct p s).port = s.port := rfl
@[simp] theorem placeAct_jobs (p : Placement) : (placeAct p s).jobs = s.jobs := rfl
@[simp] theorem placeAct_placements (p : Placement) : (placeAct p s).placements =
    s.placements ++ [p] := rfl
@[simp] theorem placeAct_glyphs (p : Placement) : (placeAct p s).glyphs = s.glyphs := rfl
@[simp] theorem placeAct_ring (p : Placement) : (placeAct p s).ring = s.ring := rfl
@[simp] theorem placeAct_renderer (p : Placement) : (placeAct p s).renderer = s.renderer := rfl
@[simp] theorem placeAct_headCfg (p : Placement) : (placeAct p s).headCfg = s.headCfg := rfl
@[simp] theorem placeAct_head (p : Placement) : (placeAct p s).head = s.head := rfl
@[simp] theorem placeAct_mem (p : Placement) : (placeAct p s).mem = s.mem := rfl
@[simp] theorem placeAct_arbiter (p : Placement) : (placeAct p s).arbiter = s.arbiter := rfl
@[simp] theorem placeAct_upload (p : Placement) : (placeAct p s).upload = s.upload := rfl
@[simp] theorem placeAct_reports (p : Placement) : (placeAct p s).reports = s.reports := rfl
@[simp] theorem placeAct_irq (p : Placement) : (placeAct p s).irq = s.irq := rfl
@[simp] theorem placeAct_pending (p : Placement) : (placeAct p s).pending = s.pending := rfl

end Sys2Proof.Machine
end

