-- ==== Sys2Proof/Laws/Ops.lean ====
section
/-! SUPPORT. What each shared operation over the label can do, said once: reports, the look, the settle, completion and abort. -/

namespace Sys2Proof.Machine

/-! ### Two states that differ in the label alone -/

/-- Nothing changes but the label in work: jobs, placements, bands, renderer, head channel, the report queue with
REPORTS_LOST, and whether an access in progress still advances its operation. -/
structure LabelOnly (s t : State) : Prop where
  phase : t.phase = s.phase
  hot : t.hot = s.hot
  paper : t.paper = s.paper
  dataOut : t.dataOut = s.dataOut
  glyphs : t.glyphs = s.glyphs
  headCfg : t.headCfg = s.headCfg
  mem : t.mem = s.mem
  upload : t.upload = s.upload
  irq : t.irq = s.irq
  pending : t.pending = s.pending
  port : { t.port with sticky := { t.port.sticky with reportsLost := s.port.sticky.reportsLost } } = s.port

/-- A state differs from itself in nothing. -/
theorem LabelOnly.refl (s : State) : LabelOnly s s := ⟨rfl, rfl, rfl, rfl, rfl, rfl, rfl, rfl, rfl, rfl, rfl⟩

/-- Two changes of the label are a change of the label. -/
theorem LabelOnly.trans {s t u : State} (h : LabelOnly s t) (k : LabelOnly t u) : LabelOnly s u where
  phase := k.phase.trans h.phase
  hot := k.hot.trans h.hot
  paper := k.paper.trans h.paper
  dataOut := k.dataOut.trans h.dataOut
  glyphs := k.glyphs.trans h.glyphs
  headCfg := k.headCfg.trans h.headCfg
  mem := k.mem.trans h.mem
  upload := k.upload.trans h.upload
  irq := k.irq.trans h.irq
  pending := k.pending.trans h.pending
  port := by
    have hp := h.port
    have kp := k.port
    rw [← hp]
    conv_rhs => rw [← kp]

/-- The command port keeps its proof copy when the label alone changes. -/
theorem LabelOnly.proof {s t : State} (h : LabelOnly s t) : t.port.proof = s.port.proof := by rw [← h.port]

/-- The command port keeps the ROW_DONE capture when the label alone changes. -/
theorem LabelOnly.capture {s t : State} (h : LabelOnly s t) : t.port.capture = s.port.capture := by rw [← h.port]

/-! ### Reports (R153) -/

/-- A report posted changes the label alone. -/
theorem post_labelOnly (r : Report) (s : State) : LabelOnly s (post r s) := by
  unfold post
  split <;> exact ⟨rfl, rfl, rfl, rfl, rfl, rfl, rfl, rfl, rfl, rfl, rfl⟩

/-- The queue after a report is posted: one more record, or the same sixteen (R153). -/
theorem post_records (r : Report) (s : State) :
    (post r s).reports.records =
      if s.reports.records.length < 16 then s.reports.records ++ [r] else s.reports.records := by
  unfold post
  split <;> rfl

@[simp] theorem post_readPos (r : Report) (s : State) : (post r s).reports.readPos = s.reports.readPos := by
  unfold post
  split <;> rfl
@[simp] theorem post_jobs (r : Report) (s : State) : (post r s).jobs = s.jobs := by
  unfold post
  split <;> rfl
@[simp] theorem post_placements (r : Report) (s : State) : (post r s).placements = s.placements := by
  unfold post
  split <;> rfl
@[simp] theorem post_ring (r : Report) (s : State) : (post r s).ring = s.ring := by
  unfold post
  split <;> rfl
@[simp] theorem post_renderer (r : Report) (s : State) : (post r s).renderer = s.renderer := by
  unfold post
  split <;> rfl
@[simp] theorem post_head (r : Report) (s : State) : (post r s).head = s.head := by
  unfold post
  split <;> rfl
@[simp] theorem post_arbiter (r : Report) (s : State) : (post r s).arbiter = s.arbiter := by
  unfold post
  split <;> rfl
@[simp] theorem post_headCfg (r : Report) (s : State) : (post r s).headCfg = s.headCfg := (post_labelOnly r s).headCfg
@[simp] theorem post_mem (r : Report) (s : State) : (post r s).mem = s.mem := (post_labelOnly r s).mem
@[simp] theorem post_proof (r : Report) (s : State) : (post r s).port.proof = s.port.proof := (post_labelOnly r s).proof

/-- A report posted keeps the law of the queue (R151, R153). -/
theorem post_lawful (r : Report) {s : State} (h : s.reports.lawful) : (post r s).reports.lawful := by
  obtain ⟨h1, h2, h3⟩ := h
  unfold post
  split
  · rename_i hl
    refine ⟨?_, h2, ?_⟩
    · simp only [List.length_append, List.length_cons, List.length_nil]
      exact hl
    · intro he
      simp at he
  · exact ⟨h1, h2, h3⟩

/-- Reports posted one after another change the label alone. -/
theorem postAll_labelOnly (rs : List Report) (s : State) : LabelOnly s (postAll rs s) := by
  unfold postAll
  induction rs generalizing s with
  | nil => exact .refl s
  | cons r rs ih => exact (post_labelOnly r s).trans (ih _)

/-- Reports posted one after another keep the law of the queue. -/
theorem postAll_lawful (rs : List Report) {s : State} (h : s.reports.lawful) : (postAll rs s).reports.lawful := by
  unfold postAll
  induction rs generalizing s with
  | nil => exact h
  | cons r rs ih => exact ih (post_lawful r h)

/-! ### The look (R78 to R81) -/

/-- A look leaves everything as it is, puts the renderer in a state outside RENDERING, or claims the band at the claim
index for a job with rows to render. -/
theorem look_cases (s : State) :
    (look s = s ∧ s.renderer.work ≠ none) ∨
    (∃ r : Renderer, r.work = none ∧ look s = { s with renderer := r }) ∨
    (∃ j : Job, s.renderer.work = none ∧ s.jobs.toRender = some j ∧ commitAllows j (chooseBand s.ring.h j) = true ∧
      s.claimable = true ∧ look s = claimBand (chooseBand s.ring.h j) s) := by
  unfold look
  split
  · rename_i w hr
    exact .inl ⟨rfl, by simp [hr, Renderer.work]⟩
  · rename_i hr
    have hw : s.renderer.work = none := by
      cases h : s.renderer with
      | rendering w => exact absurd h (hr w)
      | _ => rfl
    split
    · exact .inr (.inl ⟨.idle, rfl, rfl⟩)
    · rename_i j hj
      dsimp only
      split
      · rename_i hc
        split
        · rename_i hk
          exact .inr (.inr ⟨j, hw, hj, hc, hk, rfl⟩)
        · exact .inr (.inl ⟨_, rfl, rfl⟩)
      · exact .inr (.inl ⟨_, rfl, rfl⟩)

/-- A look changes the label alone. -/
theorem look_labelOnly (s : State) : LabelOnly s (look s) := by
  rcases look_cases s with ⟨h, -⟩ | ⟨r, -, h⟩ | ⟨j, -, -, -, -, h⟩ <;> rw [h] <;>
    exact ⟨rfl, rfl, rfl, rfl, rfl, rfl, rfl, rfl, rfl, rfl, rfl⟩

@[simp] theorem look_jobs (s : State) : (look s).jobs = s.jobs := by
  rcases look_cases s with ⟨h, -⟩ | ⟨r, -, h⟩ | ⟨j, -, -, -, -, h⟩ <;> simp [h]
@[simp] theorem look_head (s : State) : (look s).head = s.head := by
  rcases look_cases s with ⟨h, -⟩ | ⟨r, -, h⟩ | ⟨j, -, -, -, -, h⟩ <;> simp [h]
@[simp] theorem look_reports (s : State) : (look s).reports = s.reports := by
  rcases look_cases s with ⟨h, -⟩ | ⟨r, -, h⟩ | ⟨j, -, -, -, -, h⟩ <;> simp [h]
@[simp] theorem look_arbiter (s : State) : (look s).arbiter = s.arbiter := by
  rcases look_cases s with ⟨h, -⟩ | ⟨r, -, h⟩ | ⟨j, -, -, -, -, h⟩ <;> simp [h]
@[simp] theorem look_port (s : State) : (look s).port = s.port := by
  rcases look_cases s with ⟨h, -⟩ | ⟨r, -, h⟩ | ⟨j, -, -, -, -, h⟩ <;> simp [h]
@[simp] theorem look_mem (s : State) : (look s).mem = s.mem := (look_labelOnly s).mem
@[simp] theorem look_headCfg (s : State) : (look s).headCfg = s.headCfg := (look_labelOnly s).headCfg
@[simp] theorem look_upload (s : State) : (look s).upload = s.upload := (look_labelOnly s).upload

/-- A look changes no band but a FREE one (R66). -/
theorem look_bandAt {s : State} {i : Nat} {b : Band} (h : s.ring.bandAt i = some b) : (look s).ring.bandAt i = some b := by
  rcases look_cases s with ⟨e, -⟩ | ⟨r, -, e⟩ | ⟨j, -, -, -, hc, e⟩ <;> rw [e]
  · exact h
  · exact h
  · have hfree : s.ring.bands[s.ring.claim]? = some none := by
      simp only [State.claimable, Bool.and_eq_true, decide_eq_true_eq] at hc
      exact hc.1
    have hi : s.ring.claim ≠ i := by
      rintro rfl
      simp [Ring.bandAt, hfree] at h
    simpa [Ring.bandAt, List.getElem?_set_ne hi] using h

/-! ### The settle (R103) -/

/-- With no line in flight a settle puts the head channel in the settled state and changes nothing else; with one it
changes nothing. -/
theorem settle_eq (s : State) :
    settle s = if s.head.lineInFlight then s else { s with head := { s.head with mode := s.settledMode } } := rfl

/-- A settle changes the label alone. -/
theorem settle_labelOnly (s : State) : LabelOnly s (settle s) := by
  unfold settle
  split <;> exact ⟨rfl, rfl, rfl, rfl, rfl, rfl, rfl, rfl, rfl, rfl, rfl⟩

@[simp] theorem settle_jobs (s : State) : (settle s).jobs = s.jobs := by
  unfold settle
  split <;> rfl
@[simp] theorem settle_reports (s : State) : (settle s).reports = s.reports := by
  unfold settle
  split <;> rfl
@[simp] theorem settle_placements (s : State) : (settle s).placements = s.placements := by
  unfold settle
  split <;> rfl
@[simp] theorem settle_ring (s : State) : (settle s).ring = s.ring := by
  unfold settle
  split <;> rfl
@[simp] theorem settle_renderer (s : State) : (settle s).renderer = s.renderer := by
  unfold settle
  split <;> rfl
@[simp] theorem settle_arbiter (s : State) : (settle s).arbiter = s.arbiter := by
  unfold settle
  split <;> rfl
@[simp] theorem settle_mem (s : State) : (settle s).mem = s.mem := (settle_labelOnly s).mem
@[simp] theorem settle_headCfg (s : State) : (settle s).headCfg = s.headCfg := (settle_labelOnly s).headCfg
@[simp] theorem settle_settledMode (s : State) : (settle s).settledMode = s.settledMode := by
  unfold settle
  split <;> rfl

/-- With no line in flight the head channel is in the settled state after a settle. -/
theorem settle_mode {s : State} (h : s.head.lineInFlight = false) : (settle s).head.mode = s.settledMode := by
  simp [settle, h]

/-! ### The front job leaves; completion and abort (R13 to R21) -/

/-- The front job's leaving changes the label alone. -/
theorem frontLeaves_labelOnly (s : State) : LabelOnly s (frontLeaves s) := by
  unfold frontLeaves
  split <;> exact ⟨rfl, rfl, rfl, rfl, rfl, rfl, rfl, rfl, rfl, rfl, rfl⟩

@[simp] theorem frontLeaves_jobs (s : State) : (frontLeaves s).jobs = ⟨s.jobs.back, none⟩ := by
  unfold frontLeaves
  split <;> simp_all
@[simp] theorem frontLeaves_reports (s : State) : (frontLeaves s).reports = s.reports := by
  unfold frontLeaves
  split <;> rfl
@[simp] theorem frontLeaves_ring (s : State) : (frontLeaves s).ring = s.ring := by
  unfold frontLeaves
  split <;> rfl
@[simp] theorem frontLeaves_placements (s : State) : (frontLeaves s).placements = s.placements := by
  unfold frontLeaves
  split <;> rfl
@[simp] theorem frontLeaves_renderer (s : State) : (frontLeaves s).renderer = s.renderer := by
  unfold frontLeaves
  split <;> rfl
@[simp] theorem frontLeaves_mode (s : State) : (frontLeaves s).head.mode = s.head.mode := by
  unfold frontLeaves
  split <;> rfl
@[simp] theorem frontLeaves_latch (s : State) : (frontLeaves s).head.latch = s.head.latch := by
  unfold frontLeaves
  split <;> rfl

/-- An abandoned composition changes the label alone: the renderer rests and its access in progress goes for nothing. -/
theorem abandonWork_cases (tag : Byte) (s : State) :
    (abandonWork tag s = s ∧ ∀ w ∈ s.renderer.work, w.job ≠ tag) ∨
    (abandonWork tag s = ({ s with renderer := .idle } : State).orphan (.rotating .renderer) ∧
      ∃ w ∈ s.renderer.work, w.job = tag) := by
  unfold abandonWork
  split
  · rename_i w hr
    split
    · rename_i hw
      exact .inr ⟨rfl, w, by simp [hr, Renderer.work], hw⟩
    · rename_i hw
      exact .inl ⟨rfl, by simpa [hr, Renderer.work] using hw⟩
  · rename_i hr
    refine .inl ⟨rfl, ?_⟩
    cases h : s.renderer with
    | rendering w => exact absurd h (hr w)
    | _ => simp [Renderer.work]

/-- What an abort or a completion frees changes the label alone. -/
theorem freeJob_labelOnly (tag : Byte) (keep : Bool) (s : State) : LabelOnly s (freeJob tag keep s) := by
  unfold freeJob
  rcases abandonWork_cases tag ((s.freeJobBands tag keep).freePlacements tag) with ⟨h, -⟩ | ⟨h, -⟩ <;> rw [h] <;>
    exact ⟨rfl, rfl, rfl, rfl, rfl, rfl, rfl, rfl, rfl, rfl, rfl⟩

@[simp] theorem freeJob_jobs (tag : Byte) (keep : Bool) (s : State) : (freeJob tag keep s).jobs = s.jobs := by
  unfold freeJob
  rcases abandonWork_cases tag ((s.freeJobBands tag keep).freePlacements tag) with ⟨h, -⟩ | ⟨h, -⟩ <;> rw [h] <;> rfl
@[simp] theorem freeJob_head (tag : Byte) (keep : Bool) (s : State) : (freeJob tag keep s).head = s.head := by
  unfold freeJob
  rcases abandonWork_cases tag ((s.freeJobBands tag keep).freePlacements tag) with ⟨h, -⟩ | ⟨h, -⟩ <;> rw [h] <;> rfl
@[simp] theorem freeJob_reports (tag : Byte) (keep : Bool) (s : State) : (freeJob tag keep s).reports = s.reports := by
  unfold freeJob
  rcases abandonWork_cases tag ((s.freeJobBands tag keep).freePlacements tag) with ⟨h, -⟩ | ⟨h, -⟩ <;> rw [h] <;> rfl
@[simp] theorem freeJob_ring (tag : Byte) (keep : Bool) (s : State) :
    (freeJob tag keep s).ring = (s.ring.freeBands tag keep).setBack := by
  unfold freeJob
  rcases abandonWork_cases tag ((s.freeJobBands tag keep).freePlacements tag) with ⟨h, -⟩ | ⟨h, -⟩ <;> rw [h] <;> rfl
@[simp] theorem freeJob_placements (tag : Byte) (keep : Bool) (s : State) :
    (freeJob tag keep s).placements = s.placements.filter fun p => decide (p.job ≠ tag) := by
  unfold freeJob
  rcases abandonWork_cases tag ((s.freeJobBands tag keep).freePlacements tag) with ⟨h, -⟩ | ⟨h, -⟩ <;> rw [h] <;> rfl

/-- A record set or kept by a claim index set back: the bands stay as they are (R70). -/
@[simp] theorem setBack_bands (r : Ring) : r.setBack.bands = r.bands := by
  unfold Ring.setBack
  dsimp only
  split <;> rfl
@[simp] theorem setBack_base (r : Ring) : r.setBack.base = r.base := by
  unfold Ring.setBack
  dsimp only
  split <;> rfl
@[simp] theorem setBack_h (r : Ring) : r.setBack.h = r.h := by
  unfold Ring.setBack
  dsimp only
  split <;> rfl
@[simp] theorem setBack_n (r : Ring) : r.setBack.n = r.n := by
  unfold Ring.setBack
  dsimp only
  split <;> rfl

/-- The records that freeing a job's bands leaves, in the terms of the claims (R18, R19). -/
theorem freeBands_bands (r : Ring) (tag : Byte) (keep : Bool) : (r.freeBands tag keep).bands = r.bandsFreed tag keep := by
  simp [Ring.freeBands, Ring.bandsFreed]

/-- The completion of the front job changes the label alone. -/
theorem completeFront_labelOnly (j : Job) (s : State) : LabelOnly s (completeFront j s) :=
  (((post_labelOnly _ s).trans (freeJob_labelOnly _ _ _)).trans (frontLeaves_labelOnly _)).trans (look_labelOnly _)

/-- The front job completes, or nothing changes (R13). -/
theorem completeIfDone_cases (s : State) :
    completeIfDone s = s ∨
      ∃ j, s.jobs.front = some j ∧ j.isAborting = false ∧ j.total ≤ j.done ∧ completeIfDone s = completeFront j s := by
  unfold completeIfDone
  split
  · rename_i j hj
    split
    · exact .inl rfl
    · rename_i h
      simp only [Bool.or_eq_true, decide_eq_true_eq, not_or, Bool.not_eq_true, Nat.not_lt] at h
      exact .inr ⟨j, hj, h.1, h.2, rfl⟩
  · exact .inl rfl

/-- A completion that is due or not changes the label alone. -/
theorem completeIfDone_labelOnly (s : State) : LabelOnly s (completeIfDone s) := by
  rcases completeIfDone_cases s with h | ⟨j, -, -, -, h⟩ <;> rw [h]
  · exact .refl s
  · exact completeFront_labelOnly j s

/-- An abort with a line in flight changes the label alone. -/
theorem abortInFlight_labelOnly (cause : AbortCause) (s : State) : LabelOnly s (abortInFlight cause s) := by
  unfold abortInFlight
  split
  · split
    · exact .refl s
    · have h : LabelOnly s (s.updateFront (Job.abort cause)) :=
        ⟨rfl, rfl, rfl, rfl, rfl, rfl, rfl, rfl, rfl, rfl, rfl⟩
      exact (h.trans (freeJob_labelOnly _ _ _)).trans (look_labelOnly _)
  · exact .refl s

/-- The end of an abort changes the label alone. -/
theorem endAbort_labelOnly (s : State) : LabelOnly s (endAbort s) := by
  unfold endAbort
  split
  · rename_i j hj
    split
    · have h : LabelOnly s (s.freeJobBands j.tag false) :=
        ⟨rfl, rfl, rfl, rfl, rfl, rfl, rfl, rfl, rfl, rfl, rfl⟩
      exact ((h.trans (post_labelOnly _ _)).trans (frontLeaves_labelOnly _)).trans (look_labelOnly _)
    · exact .refl s
  · exact .refl s

/-- An abort at once of the front job changes the label alone. -/
theorem abortFrontAtOnce_labelOnly (j : Job) (cause : AbortCause) (s : State) :
    LabelOnly s (abortFrontAtOnce j cause s) :=
  (((freeJob_labelOnly _ _ s).trans (post_labelOnly _ _)).trans (frontLeaves_labelOnly _)).trans (look_labelOnly _)

/-- What an abort at once leaves: the back job in front, and JOB_ABORTED at the tail of the queue (R19). -/
theorem abortFrontAtOnce_spec (j : Job) (cause : AbortCause) (s : State) :
    (abortFrontAtOnce j cause s).jobs = ⟨s.jobs.back, none⟩ ∧
      (abortFrontAtOnce j cause s).reports.records =
        if s.reports.records.length < 16 then s.reports.records ++ [reportJobAborted j cause]
        else s.reports.records := by
  simp [abortFrontAtOnce, post_records]

/-- An abort of the back job changes the label alone. -/
theorem abortBack_labelOnly (j : Job) (s : State) : LabelOnly s (abortBack j s) := by
  unfold abortBack
  have h := (freeJob_labelOnly j.tag false s).trans (post_labelOnly (reportJobAborted j .host) _)
  have k : LabelOnly s
      { post (reportJobAborted j .host) (freeJob j.tag false s) with
        jobs := { (post (reportJobAborted j .host) (freeJob j.tag false s)).jobs with back := none } } :=
    ⟨h.phase, h.hot, h.paper, h.dataOut, h.glyphs, h.headCfg, h.mem, h.upload, h.irq, h.pending, h.port⟩
  exact k.trans (look_labelOnly _)

/-- What an abort of the back job leaves: the front job as it was, and the head channel as it was (R21). -/
theorem abortBack_spec (j : Job) (s : State) :
    (abortBack j s).jobs = ⟨s.jobs.front, none⟩ ∧ (abortBack j s).head = s.head := by
  simp [abortBack]

end Sys2Proof.Machine
end

