-- ==== Sys2Proof/Laws/Head.lean ====
section
/-! SUPPORT. What each operation of the head channel and the completion of a band can do, said once. -/

namespace Sys2Proof.Machine

/-- A change of jobs, placements, bands, renderer, head, reports and arbiter is a change of the label alone. -/
theorem labelOnly_of_parts (s : State) (jobs : JobTable) (placements : List Placement) (ring : Ring)
    (renderer : Renderer) (head : Head) (reports : ReportQueue) (arbiter : Arbiter) :
    LabelOnly s { s with
      jobs := jobs, placements := placements, ring := ring, renderer := renderer, head := head, reports := reports
      arbiter := arbiter } :=
  ⟨rfl, rfl, rfl, rfl, rfl, rfl, rfl, rfl, rfl, rfl, rfl⟩

/-- The head channel's state replaced is a change of the label alone. -/
theorem withMode_labelOnly (m : HeadMode) (s : State) : LabelOnly s (s.withMode m) :=
  labelOnly_of_parts s _ _ _ _ _ _ _

/-- A head channel whose state is replaced with no line in flight, and which then settles, is in the settled state. -/
theorem settle_withMode_idle (s : State) :
    settle (s.withMode .idle) = { s with head := { s.head with mode := s.settledMode } } := rfl

/-! ### A step consumed with no line in flight -/

/-- A trailing row changes the label alone (R106). -/
theorem trailingStep_labelOnly (s : State) : LabelOnly s (trailingStep s) :=
  ((labelOnly_of_parts s _ _ _ _ _ _ _ : LabelOnly s s.clearHistory.advanceDone).trans
    (completeIfDone_labelOnly _)).trans (settle_labelOnly _)

/-- A line started changes the label alone (R107). -/
theorem startLine_labelOnly (j : Job) (i : Nat) (s : State) : LabelOnly s (startLine j i s) := by
  unfold startLine
  split
  · exact labelOnly_of_parts s _ _ _ _ _ _ _
  · exact .refl s

/-- An underrun changes the label alone (R113, R114). -/
theorem underrunStep_labelOnly (j : Job) (s : State) : LabelOnly s (underrunStep j s) := by
  unfold underrunStep
  split
  · exact (((labelOnly_of_parts s _ _ _ _ _ _ _ : LabelOnly s s.clearHistory.advanceBlank).trans
      (post_labelOnly _ _)).trans (completeIfDone_labelOnly _)).trans (settle_labelOnly _)
  · exact (abortFrontAtOnce_labelOnly _ _ s).trans (settle_labelOnly _)

/-- A step in ARMED changes the label alone (R105). -/
theorem armedStep_labelOnly (j : Job) (s : State) : LabelOnly s (armedStep j s) := by
  unfold armedStep
  split
  · exact trailingStep_labelOnly s
  · split
    · exact startLine_labelOnly _ _ s
    · exact underrunStep_labelOnly _ s

/-- A step taken from the latch changes the label alone (R117). -/
theorem servedStep_labelOnly (s : State) : LabelOnly s (servedStep s) := by
  unfold servedStep
  split
  · exact settle_labelOnly s
  · split
    · exact armedStep_labelOnly _ s
    · exact underrunStep_labelOnly _ s

/-- The latch served changes the label alone (R117). -/
theorem serveLatch_labelOnly (s : State) : LabelOnly s (serveLatch s) := by
  unfold serveLatch
  split
  · exact (labelOnly_of_parts s _ _ _ _ { s.head with mode := .idle, latch := false } _ _).trans (servedStep_labelOnly _)
  · exact (withMode_labelOnly _ s).trans (settle_labelOnly _)

/-- With the latch clear, serving it drops the line in flight and settles, and nothing else (R110). -/
theorem serveLatch_of_clear {s : State} (h : s.head.latch = false) :
    serveLatch s = { s with head := { s.head with mode := s.settledMode } } := by
  simp only [serveLatch, h, Bool.false_eq_true, if_false, settle_withMode_idle]

/-! ### The end of a line -/

/-- A band released changes the label alone (R69). -/
theorem releaseBand_labelOnly (line : Line) (s : State) : LabelOnly s (releaseBand line s) := by
  unfold releaseBand
  split
  · split
    · exact (labelOnly_of_parts s _ _ _ _ _ _ _ : LabelOnly s (s.setBand line.band none)).trans (look_labelOnly _)
    · exact .refl s
  · exact .refl s

/-- The end of an abort or a completion changes the label alone (R110). -/
theorem endAbortOrComplete_labelOnly (s : State) : LabelOnly s (endAbortOrComplete s) := by
  unfold endAbortOrComplete
  split
  · split
    · exact endAbort_labelOnly s
    · exact completeIfDone_labelOnly s
  · exact .refl s

/-- The end of a printed line changes the label alone (R110). -/
theorem endLine_labelOnly (line : Line) (s : State) : LabelOnly s (endLine line s) := by
  unfold endLine
  exact (((labelOnly_of_parts s _ _ _ _ { s.head with history := line.bytes } _ _ :
    LabelOnly s ({ s with head := { s.head with history := line.bytes } } : State).advanceDone).trans
      (releaseBand_labelOnly _ _)).trans (endAbortOrComplete_labelOnly _)).trans (serveLatch_labelOnly _)

/-- An abandoned line changes the label alone (R116, R120). -/
theorem abandonLine_labelOnly (s : State) : LabelOnly s (abandonLine s) := by
  unfold abandonLine
  have h := endAbort_labelOnly s
  have k : LabelOnly s ((endAbort s).orphan .fetch) :=
    h.trans (labelOnly_of_parts _ _ _ _ _ _ _ _ : LabelOnly (endAbort s) ((endAbort s).orphan .fetch))
  exact k.trans (serveLatch_labelOnly _)

/-! ### Shifts and pulses -/

/-- A pulse begun changes the label alone (R110, R111). -/
theorem startPulse_labelOnly (p : Pass) (line : Line) (s : State) : LabelOnly s (startPulse p line s) := by
  unfold startPulse markStarted
  split
  · exact withMode_labelOnly _ s
  · exact ((labelOnly_of_parts s _ _ _ _ { s.head with started := true } _ _).trans (post_labelOnly _ _)).trans
      (withMode_labelOnly _ _)

/-- After a pulse has begun the head channel strobes the group for the time of the pass, and the job has started (R110). -/
theorem startPulse_head (p : Pass) (line : Line) (s : State) :
    (startPulse p line s).head =
      { s.head with mode := .inFlight (.strobe p (s.headCfg.pulsePeriods p)) line, started := true } := by
  unfold startPulse markStarted
  split
  · rename_i h
    simp [h]
  · simp

/-- A pass that takes up a group changes the label alone (R110). -/
theorem takeUpGroup_labelOnly (p : Pass) (k : Nat) (line : Line) (s : State) :
    LabelOnly s (takeUpGroup p k line s) := by
  unfold takeUpGroup
  split
  · split
    · exact withMode_labelOnly _ s
    · exact startPulse_labelOnly _ _ s
  · split
    · exact withMode_labelOnly _ s
    · exact endLine_labelOnly _ s

/-- A fetch ended changes the label alone (R108). -/
theorem lineFetched_labelOnly (line : Line) (s : State) : LabelOnly s (lineFetched line s) := by
  unfold lineFetched
  split
  · dsimp only
    split <;> exact withMode_labelOnly _ s
  · exact endLine_labelOnly _ s

/-- A shift ended changes the label alone (R109). -/
theorem endShift_labelOnly (s : State) : LabelOnly s (endShift s) := by
  unfold endShift
  split
  · exact takeUpGroup_labelOnly _ _ _ s
  · exact .refl s

/-- A pulse ended changes the label alone (R110, R116). -/
theorem endPulse_labelOnly (s : State) : LabelOnly s (endPulse s) := by
  unfold endPulse
  split
  · split
    · exact abandonLine_labelOnly s
    · exact takeUpGroup_labelOnly _ _ _ s
  · exact .refl s

/-- A hot hold expired changes the label alone (R120). -/
theorem expireHold_labelOnly (s : State) : LabelOnly s (expireHold s) := by
  unfold expireHold
  split
  · exact (abortInFlight_labelOnly _ s).trans (abandonLine_labelOnly _)
  · exact .refl s

/-- A hot hold released changes the label alone (R119). -/
theorem releaseHold_labelOnly (s : State) : LabelOnly s (releaseHold s) := by
  unfold releaseHold
  split
  · exact startPulse_labelOnly _ _ s
  · exact .refl s

/-- A lost step changes the label alone (R116). -/
theorem loseStep_labelOnly (phase : LinePhase) (line : Line) (s : State) : LabelOnly s (loseStep phase line s) := by
  unfold loseStep
  have h := (labelOnly_of_parts s s.jobs s.placements s.ring s.renderer
    { s.head with latch := false, mode := .inFlight phase { line with ending := true } } s.reports s.arbiter).trans
    (abortInFlight_labelOnly .stepLost _)
  dsimp only
  split
  · exact h
  · exact h.trans (abandonLine_labelOnly _)

/-- A line step changes the label alone (R105). -/
theorem lineStepOp_labelOnly (s : State) : LabelOnly s (lineStepOp s) := by
  unfold lineStepOp
  split
  · split
    · exact .refl s
    · exact underrunStep_labelOnly _ s
    · exact armedStep_labelOnly _ s
    · split
      · exact .refl s
      · split
        · exact loseStep_labelOnly _ _ s
        · exact labelOnly_of_parts s _ _ _ _ { s.head with latch := true } _ _
    · exact .refl s
  · exact .refl s

/-- The timers of the head channel change the label alone (R109, R110, R120). -/
theorem timers_labelOnly (s : State) : LabelOnly s (timers s) := by
  unfold timers
  split
  · split
    · exact endShift_labelOnly s
    · exact withMode_labelOnly _ s
  · split
    · exact endPulse_labelOnly s
    · exact withMode_labelOnly _ s
  · split
    · exact expireHold_labelOnly s
    · exact withMode_labelOnly _ s
  · exact .refl s

/-- The completion of a band changes the label alone (R96). -/
theorem bandDone_labelOnly (w : Work) (s : State) : LabelOnly s (bandDone w s) := by
  unfold bandDone
  exact (((labelOnly_of_parts s _ _ _ _ _ _ _).trans (postAll_labelOnly _ _)).trans (look_labelOnly _)).trans
    (settle_labelOnly _)

/-! ### The periods of a phase (R109, R110, R118) -/

/-- A phase given another count has that count left. -/
@[simp] theorem LinePhase.periods_withPeriods {phase : LinePhase} {n : Nat} (h : phase.periods = some n) (m : Nat) :
    (phase.withPeriods m).periods = some m := by
  cases phase <;> first | rfl | cases h

/-- How long a phase lasts at most does not depend on how long it has left. -/
@[simp] theorem LinePhase.most_withPeriods (phase : LinePhase) (m : Nat) (c : HeadConfig) :
    (phase.withPeriods m).most c = phase.most c := by
  rcases phase with _ | ⟨p, n⟩ | ⟨p, n⟩ | ⟨p, n⟩ <;> first | rfl | (cases p <;> rfl)

/-- A period takes one from a phase that has two or more left, and does nothing else. -/
theorem timers_going {s : State} {phase : LinePhase} {line : Line} {n : Nat} (hm : s.head.mode = .inFlight phase line)
    (hp : phase.periods = some n) (hn : 2 ≤ n) : timers s = s.withMode (.inFlight (phase.withPeriods (n - 1)) line) := by
  have h : ¬ n ≤ 1 := by omega
  cases phase <;> cases hp <;> simp [timers, hm, h, LinePhase.withPeriods]

/-- The last period of a phase is its end, as the row of that end gives it. -/
theorem timers_ending {s : State} {phase : LinePhase} {line : Line} {n : Nat} (hm : s.head.mode = .inFlight phase line)
    (hp : phase.periods = some n) (hn : n ≤ 1) : exec phase.endRow s = .next (timers s) := by
  cases phase <;> cases hp <;>
    simp [timers, hm, hn, LinePhase.endRow, exec, execShiftEnd, execStrobePulseEnd, execHotHoldExpire]

end Sys2Proof.Machine
end

