-- ==== Sys2Proof/Laws/Memory.lean ====
section
/-! SUPPORT. Raster memory: a read after a write, the other addresses, and the canonical form kept by every operation. -/

namespace Sys2Proof.Machine

/-! ### The canonical form as a proposition -/

/-- The canonical form says: addresses strictly rising, no listed byte 00h, every address inside memory. -/
theorem Memory.wf_iff (m : Memory) :
    m.wf = true ↔ (m.Pairwise fun c d => c.1 < d.1) ∧ ∀ c ∈ m, c.2 ≠ Memory.unlisted ∧ c.1 < Config.memSize := by
  simp [Memory.wf, List.all_eq_true]

/-- The tail of memory in canonical form is in canonical form. -/
theorem Memory.wf_tail {c : Host.Cell} {m : Memory} (h : Memory.wf (c :: m) = true) : m.wf = true := by
  rw [Memory.wf_iff, List.pairwise_cons] at h
  exact (Memory.wf_iff m).2 ⟨h.1.2, fun d hd => h.2 d (List.mem_cons_of_mem _ hd)⟩

/-- Below every listed address memory reads as an unlisted address. -/
theorem Memory.read_below {m : Memory} {a : Nat} (h : ∀ c ∈ m, a < c.1) : m.read a = Memory.unlisted := by
  induction m with
  | nil => rfl
  | cons c m ih =>
    obtain ⟨b, v⟩ := c
    have hb : a < b := h (b, v) (List.mem_cons_self ..)
    simp only [Memory.read, if_neg (Nat.ne_of_gt hb)]
    exact ih fun d hd => h d (List.mem_cons_of_mem _ hd)

/-! ### A read after an insertion -/

/-- What memory in canonical form reads as after a byte has been put at an address. -/
theorem Memory.read_insert {m : Memory} (h : m.wf = true) (a : Nat) (v : Byte) (x : Nat) :
    (Memory.insert m a v).read x = if x = a then v else m.read x := by
  have single : ∀ m : Memory, Memory.read ((a, v) :: m) x = if x = a then v else m.read x := by
    intro m
    by_cases hx : x = a
    · simp [Memory.read, hx]
    · simp [Memory.read, hx, Ne.symm hx]
  induction m with
  | nil =>
    by_cases hv : v = Memory.unlisted
    · subst hv
      simp [Memory.insert, Memory.read]
    · simp only [Memory.insert, if_neg hv]
      exact single []
  | cons c m ih =>
    obtain ⟨b, w⟩ := c
    have hm := Memory.wf_tail h
    rw [Memory.wf_iff, List.pairwise_cons] at h
    have habove : ∀ d ∈ m, b < d.1 := h.1.1
    by_cases h1 : a < b
    · have hall : ∀ d ∈ ((b, w) :: m : Memory), a < d.1 := by
        intro d hd
        rcases List.mem_cons.1 hd with rfl | hd
        · exact h1
        · exact Nat.lt_trans h1 (habove d hd)
      by_cases hv : v = Memory.unlisted
      · simp only [Memory.insert, if_pos h1, if_pos hv]
        by_cases hx : x = a
        · rw [if_pos hx, hx, hv, Memory.read_below hall]
        · rw [if_neg hx]
      · simp only [Memory.insert, if_pos h1, if_neg hv]
        exact single _
    · by_cases h3 : a = b
      · subst h3
        by_cases hv : v = Memory.unlisted
        · simp only [Memory.insert, lt_irrefl, if_false, if_true, if_pos hv]
          by_cases hx : x = a
          · rw [if_pos hx, hx, hv, Memory.read_below habove]
          · simp only [if_neg hx, Memory.read, if_neg (Ne.symm hx)]
        · simp only [Memory.insert, lt_irrefl, if_false, if_true, if_neg hv]
          rw [single]
          by_cases hx : x = a
          · simp only [if_pos hx]
          · simp only [if_neg hx, Memory.read, if_neg (Ne.symm hx)]
      · simp only [Memory.insert, if_neg h1, if_neg h3, Memory.read, ih hm]
        by_cases hb : b = x
        · subst hb
          simp only [if_true, if_neg (Ne.symm h3)]
        · simp only [if_neg hb]

/-- The addresses listed after an insertion are the old ones and the one written. -/
theorem Memory.mem_insert {m : Memory} {a : Nat} {v : Byte} {c : Host.Cell} (h : c ∈ Memory.insert m a v) :
    c ∈ m ∨ c = (a, v) ∧ v ≠ Memory.unlisted := by
  induction m with
  | nil =>
    unfold Memory.insert at h
    split_ifs at h with hv
    · simp at h
    · simp at h
      exact .inr ⟨h, hv⟩
  | cons d m ih =>
    obtain ⟨b, w⟩ := d
    unfold Memory.insert at h
    split_ifs at h with h1 h2 h3 h4
    · exact .inl h
    · rcases List.mem_cons.1 h with h | h
      · exact .inr ⟨h, h2⟩
      · exact .inl h
    · exact .inl (List.mem_cons_of_mem _ h)
    · rcases List.mem_cons.1 h with h | h
      · exact .inr ⟨h, h4⟩
      · exact .inl (List.mem_cons_of_mem _ h)
    · rcases List.mem_cons.1 h with h | h
      · exact .inl (h ▸ List.mem_cons_self ..)
      · exact (ih h).imp_left (List.mem_cons_of_mem _)

/-- An insertion inside memory keeps the canonical form. -/
theorem Memory.wf_insert {m : Memory} (h : m.wf = true) {a : Nat} (ha : a < Config.memSize) (v : Byte) :
    (Memory.insert m a v).wf = true := by
  induction m with
  | nil =>
    unfold Memory.insert
    split_ifs with hv
    · rfl
    · simp [Memory.wf_iff, hv, ha]
  | cons c m ih =>
    obtain ⟨b, w⟩ := c
    have hm := Memory.wf_tail h
    have h0 := h
    rw [Memory.wf_iff, List.pairwise_cons] at h
    have habove : ∀ d ∈ m, b < d.1 := h.1.1
    unfold Memory.insert
    split_ifs with h1 h2 h3 h4
    · exact h0
    · rw [Memory.wf_iff, List.pairwise_cons]
      refine ⟨⟨?_, List.pairwise_cons.2 h.1⟩, ?_⟩
      · intro d hd
        rcases List.mem_cons.1 hd with rfl | hd
        · exact h1
        · exact Nat.lt_trans h1 (habove d hd)
      · intro d hd
        rcases List.mem_cons.1 hd with rfl | hd
        · exact ⟨h2, ha⟩
        · exact h.2 d hd
    · exact hm
    · subst h3
      rw [Memory.wf_iff, List.pairwise_cons]
      refine ⟨h.1, ?_⟩
      intro d hd
      rcases List.mem_cons.1 hd with rfl | hd
      · exact ⟨h4, ha⟩
      · exact h.2 d (List.mem_cons_of_mem _ hd)
    · have ih' := (Memory.wf_iff _).1 (ih hm)
      rw [Memory.wf_iff, List.pairwise_cons]
      refine ⟨⟨?_, ih'.1⟩, ?_⟩
      · intro d hd
        rcases Memory.mem_insert hd with hd | ⟨rfl, -⟩
        · exact habove d hd
        · exact Nat.lt_of_le_of_ne (Nat.le_of_not_lt h1) (Ne.symm h3)
      · intro d hd
        rcases List.mem_cons.1 hd with rfl | hd
        · exact h.2 _ (List.mem_cons_self ..)
        · exact ih'.2 d hd

/-! ### Writes -/

/-- What memory reads as after a write inside memory. -/
theorem Memory.read_write {m : Memory} (h : m.wf = true) {a : Nat} (ha : a < Config.memSize) (v : Byte) (x : Nat) :
    (Memory.write m a v).read x = if x = a then v else m.read x := by
  simp only [Memory.write, if_pos ha, Memory.read_insert h]

/-- A read after a write at the same address gives the byte written. -/
theorem Memory.read_write_same {m : Memory} (h : m.wf = true) {a : Nat} (ha : a < Config.memSize) (v : Byte) :
    (Memory.write m a v).read a = v := by
  simp [Memory.read_write h ha]

/-- A write leaves every other address as it was. -/
theorem Memory.read_write_other {m : Memory} (h : m.wf = true) {a x : Nat} (hx : x ≠ a) (v : Byte) :
    (Memory.write m a v).read x = m.read x := by
  unfold Memory.write
  split_ifs with ha
  · simp [Memory.read_insert h, hx]
  · rfl

/-- A write keeps the canonical form. -/
theorem Memory.wf_write {m : Memory} (h : m.wf = true) (a : Nat) (v : Byte) : (Memory.write m a v).wf = true := by
  unfold Memory.write
  split_ifs with ha
  · exact Memory.wf_insert h ha v
  · exact h

/-! ### Runs of writes -/

/-- A run of writes keeps the canonical form, whatever each of them writes and wherever. -/
theorem Memory.wf_foldl_write {α : Type} (at' : α → Nat) (value : Memory → α → Byte) (l : List α) {m : Memory}
    (h : m.wf = true) : (l.foldl (fun m x => Memory.write m (at' x) (value m x)) m).wf = true := by
  induction l generalizing m with
  | nil => exact h
  | cons x l ih => exact ih (Memory.wf_write h _ _)

/-- The clearing phase keeps the canonical form (R85). -/
theorem Memory.wf_clearRange {m : Memory} (h : m.wf = true) (a count : Nat) : (Memory.clearRange m a count).wf = true :=
  Memory.wf_foldl_write (fun i => a + i) (fun _ _ => 0x00) _ h

/-- What memory reads as after so many bytes from an address have been cleared (R85). -/
theorem Memory.read_clearRange {m : Memory} (h : m.wf = true) {a count : Nat} (ha : a + count ≤ Config.memSize)
    (x : Nat) : (Memory.clearRange m a count).read x = if a ≤ x ∧ x < a + count then 0x00 else m.read x := by
  induction count with
  | zero =>
    have hx : ¬ (a ≤ x ∧ x < a + 0) := by omega
    rw [if_neg hx]
    rfl
  | succ n ih =>
    have hn : a + n < Config.memSize := by omega
    have e : Memory.clearRange m a (n + 1) = Memory.write (Memory.clearRange m a n) (a + n) 0x00 := by
      simp [Memory.clearRange, List.range_succ]
    rw [e, Memory.read_write (Memory.wf_clearRange h a n) hn, ih (by omega)]
    by_cases hx : x = a + n
    · subst hx
      simp
    · have : (a ≤ x ∧ x < a + (n + 1)) ↔ (a ≤ x ∧ x < a + n) := by omega
      simp [hx, this]

/-- The end of the power-on clear keeps the canonical form (R133). -/
theorem Memory.wf_clearFrom {m : Memory} (h : m.wf = true) (a : Nat) : (Memory.clearFrom m a).wf = true := by
  rw [Memory.wf_iff] at h ⊢
  exact ⟨h.1.filter _, fun c hc => h.2 c (List.mem_filter.1 hc).1⟩

/-- What memory reads as after the bytes from an address on have been cleared (R133). -/
theorem Memory.read_clearFrom (m : Memory) (a x : Nat) :
    (Memory.clearFrom m a).read x = if x < a then m.read x else 0x00 := by
  induction m with
  | nil => simp [Memory.clearFrom, Memory.read, Memory.unlisted]
  | cons c m ih =>
    obtain ⟨b, v⟩ := c
    simp only [Memory.clearFrom] at ih
    by_cases hb : b < a
    · rw [show Memory.clearFrom ((b, v) :: m) a = (b, v) :: m.filter fun c => decide (c.1 < a) by
        simp [Memory.clearFrom, hb]]
      simp only [Memory.read, ih]
      by_cases hx : b = x
      · subst hx
        simp [hb]
      · simp [hx]
    · rw [show Memory.clearFrom ((b, v) :: m) a = m.filter fun c => decide (c.1 < a) by
        simp [Memory.clearFrom, hb]]
      rw [ih]
      by_cases hx : b = x
      · subst hx
        simp [hb]
      · simp [Memory.read, hx]

/-! ### Composition and the accesses -/

/-- The rest of a row keeps the canonical form (R87). -/
theorem wf_finishRow (p : Placement) (laid : List Laid) (limit line row : Nat) (src : List Byte) (col : Nat)
    (held : Option Byte) {m : Memory} (h : m.wf = true) : (finishRow p laid limit line row src col held m).wf = true :=
  Memory.wf_foldl_write (fun j => line + p.firstByte + j)
    (fun m' j => p.combineByte laid limit row
      (src ++ ((p.sources laid limit row).drop src.length).map (Memory.read m)) (p.firstByte + j)
      (if j = col then held.getD (Memory.read m' (line + p.firstByte + j)) else Memory.read m' (line + p.firstByte + j)))
    _ h

/-- The rows of a copy keep the canonical form (R87). -/
theorem wf_finishRows (s : State) (w : Work) (p : Placement) (k : Nat) (laid : List Laid) (row : Nat) {m : Memory}
    (h : m.wf = true) : (finishRows s w p k laid row m).wf = true := by
  unfold finishRows
  induction List.range' row (w.endRow p k - row) generalizing m with
  | nil => exact h
  | cons r rs ih => exact ih (wf_finishRow _ _ _ _ _ _ _ _ h)

/-- The copies still to draw keep the canonical form (R86). -/
theorem wf_finishCopies (s : State) (w : Work) (todo : List CopyRef) {m : Memory} (h : m.wf = true) :
    (finishCopies s w todo m).wf = true := by
  unfold finishCopies
  induction todo generalizing m with
  | nil => exact h
  | cons c cs ih =>
    refine ih ?_
    dsimp only
    split
    · exact h
    · exact wf_finishRows _ _ _ _ _ _ h

/-- The rest of a band composed at one go keeps the canonical form (R85 to R90). -/
theorem wf_composeRest (s : State) (w : Work) (h : s.mem.wf = true) : (composeRest s w).wf = true := by
  unfold composeRest
  split
  · exact wf_finishCopies _ _ _ (Memory.wf_clearRange h _ _)
  · exact h
  · split
    · exact wf_finishCopies _ _ _ h
    · exact wf_finishCopies _ _ _ (wf_finishRows _ _ _ _ _ _ h)
  · split
    · exact wf_finishCopies _ _ _ h
    · exact wf_finishCopies _ _ _ (wf_finishRows _ _ _ _ _ _ (wf_finishRow _ _ _ _ _ _ _ _ h))

/-- The byte of an access that lands keeps the canonical form (R127). -/
theorem wf_land (s : State) (a : Access) (h : s.mem.wf = true) : (s.land a).mem.wf = true := by
  unfold State.land
  split
  · exact Memory.wf_write h _ _
  · exact h

/-- Memory right after reset lists nothing, so it has the canonical form. -/
theorem wf_reset : State.reset.mem.wf = true := rfl

end Sys2Proof.Machine
end

