-- ==== Sys2Proof/Laws/Arbiter.lean ====
section
/-! SUPPORT. The arbiter: what a grant and a performed access can do, said once, and the upload channel's moves. -/

namespace Sys2Proof.Machine

/-! ### The grant (R128) -/

/-- A grant answers the waiting request of some client when no access is in progress, and otherwise changes nothing. -/
theorem grant_cases (s : State) :
    grant s = s ∨ ∃ c r, s.arbiter.inProgress = none ∧ choice s = some (c, r) ∧ grant s = grantTo c r s := by
  unfold grant
  split
  · exact .inl rfl
  · rename_i hp
    split
    · rename_i c r hc
      exact .inr ⟨c, r, hp, hc, rfl⟩
    · exact .inl rfl

/-- The fetch goes first whenever it waits (R128). -/
theorem choice_fetch {s : State} {r : Request} (h : fetchRequest s = some r) : choice s = some (.fetch, r) := by
  simp [choice, h]

/-- A request chosen is the one its client has waiting (R128). -/
theorem choice_requestOf {s : State} {c : Client} {r : Request} (h : choice s = some (c, r)) : requestOf s c = some r := by
  unfold choice at h
  split at h
  · rename_i q hq
    cases h
    exact hq
  · obtain ⟨k, -, hk⟩ := List.exists_of_findSome?_eq_some h
    simp only [Option.map_eq_some_iff] at hk
    obtain ⟨q, hq, he⟩ := hk
    cases he
    exact hq

/-- A grant changes the label alone (the arbiter is part of what the label's operations may touch). -/
theorem grant_labelOnly (s : State) : LabelOnly s (grant s) := by
  rcases grant_cases s with h | ⟨c, r, -, -, h⟩ <;> rw [h]
  · exact .refl s
  · exact labelOnly_of_parts s s.jobs s.placements s.ring s.renderer s.head s.reports _

@[simp] theorem grant_jobs (s : State) : (grant s).jobs = s.jobs := by
  rcases grant_cases s with h | ⟨c, r, -, -, h⟩ <;> simp [h]
@[simp] theorem grant_head (s : State) : (grant s).head = s.head := by
  rcases grant_cases s with h | ⟨c, r, -, -, h⟩ <;> simp [h]
@[simp] theorem grant_ring (s : State) : (grant s).ring = s.ring := by
  rcases grant_cases s with h | ⟨c, r, -, -, h⟩ <;> simp [h]
@[simp] theorem grant_renderer (s : State) : (grant s).renderer = s.renderer := by
  rcases grant_cases s with h | ⟨c, r, -, -, h⟩ <;> simp [h]
@[simp] theorem grant_placements (s : State) : (grant s).placements = s.placements := by
  rcases grant_cases s with h | ⟨c, r, -, -, h⟩ <;> simp [h]
@[simp] theorem grant_reports (s : State) : (grant s).reports = s.reports := by
  rcases grant_cases s with h | ⟨c, r, -, -, h⟩ <;> simp [h]
@[simp] theorem grant_mem (s : State) : (grant s).mem = s.mem := (grant_labelOnly s).mem
@[simp] theorem grant_upload (s : State) : (grant s).upload = s.upload := (grant_labelOnly s).upload

/-! ### The upload channel's moves (R141, R142, R144) -/

/-- The cursor stays in its row. -/
theorem advance_position {g : Segment} (h : 1 ≤ g.rowBytes) : g.advance.position < g.rowBytes := by
  unfold Segment.advance
  split
  · assumption
  · exact h

@[simp] theorem advance_rowBytes (g : Segment) : g.advance.rowBytes = g.rowBytes := by
  unfold Segment.advance
  split <;> rfl
@[simp] theorem advance_rows (g : Segment) : g.advance.rows = g.rows := by
  unfold Segment.advance
  split <;> rfl
@[simp] theorem advance_stride (g : Segment) : g.advance.stride = g.stride := by
  unfold Segment.advance
  split <;> rfl
@[simp] theorem advance_address (g : Segment) : g.advance.address = g.address := by
  unfold Segment.advance
  split <;> rfl
@[simp] theorem advance_notify (g : Segment) : g.advance.notify = g.notify := by
  unfold Segment.advance
  split <;> rfl
@[simp] theorem advance_direction (g : Segment) : g.advance.direction = g.direction := by
  unfold Segment.advance
  split <;> rfl
@[simp] theorem advance_bytesLeft (g : Segment) : g.advance.bytesLeft = g.bytesLeft := by
  unfold Segment.advance
  split <;> rfl

/-- The end of a segment posts at most one report and moves the next segment up; the FIFO stays (R144). -/
theorem endSegment_upload (g : Segment) (s : State) :
    (endSegment g s).upload = ⟨s.upload.nxt, none, s.upload.fifo⟩ ∧ (endSegment g s).mem = s.mem ∧
      (endSegment g s).jobs = s.jobs := by
  unfold endSegment
  split
  · simp [(post_labelOnly (reportSegmentDone g) s).upload]
  · exact ⟨rfl, rfl, rfl⟩

/-- A segment with bytes left stays current. -/
theorem setCurrent_going {g : Segment} (h : g.bytesLeft ≠ 0) (fifo : List Byte) (s : State) :
    setCurrent g fifo s = { s with upload := { s.upload with cur := some g, fifo := fifo } } := by
  simp [setCurrent, h]

/-! ### The access performed (R128, R129) -/

/-- A segment's new record and its end leave memory and the jobs as they are. -/
theorem setCurrent_mem (g : Segment) (fifo : List Byte) (s : State) :
    (setCurrent g fifo s).mem = s.mem ∧ (setCurrent g fifo s).jobs = s.jobs := by
  unfold setCurrent
  dsimp only
  split
  · exact (endSegment_upload g _).2
  · exact ⟨rfl, rfl⟩

/-- An operation that moves on leaves memory and the jobs as they are: the byte has landed before. -/
theorem progress_mem (c : Client) (v : Byte) (s : State) :
    (progress c v s).mem = s.mem ∧ (progress c v s).jobs = s.jobs := by
  cases c with
  | fetch =>
    unfold progress
    dsimp only
    split <;> exact ⟨rfl, rfl⟩
  | rotating k =>
    cases k with
    | renderer =>
      unfold progress
      dsimp only
      split <;> exact ⟨rfl, rfl⟩
    | upload =>
      unfold progress
      dsimp only
      split
      · split
        · exact setCurrent_mem _ _ s
        · exact ⟨rfl, rfl⟩
      · exact ⟨rfl, rfl⟩
    | port =>
      unfold progress
      dsimp only
      split
      · exact ⟨rfl, rfl⟩
      · split <;> exact ⟨rfl, rfl⟩

/-- With no access in progress nothing is performed. -/
theorem perform_quiet {s : State} (h : s.quiet) : perform s = s := by
  simp [perform, h]

/-- The access performed leaves memory as its write does, or as it was. -/
theorem perform_mem (s : State) :
    (perform s).mem =
      match s.arbiter.inProgress with
      | none => s.mem
      | some a =>
        match a.write with
        | some v => Memory.write s.mem a.addr v
        | none => s.mem := by
  unfold perform
  cases s.arbiter.inProgress with
  | none => rfl
  | some a =>
    have hl : (({ s with arbiter := { s.arbiter with inProgress := none } } : State).land a).mem =
        (match a.write with
        | some v => Memory.write s.mem a.addr v
        | none => s.mem) := by
      unfold State.land
      cases a.write <;> rfl
    dsimp only
    split
    · rw [(progress_mem _ _ _).1, hl]
    · exact hl

/-- The access performed keeps the canonical form of memory. -/
theorem perform_wf {s : State} (h : s.mem.wf = true) : (perform s).mem.wf = true := by
  rw [perform_mem]
  split
  · exact h
  · split
    · exact Memory.wf_write h _ _
    · exact h

/-- The access performed leaves the jobs as they are. -/
@[simp] theorem perform_jobs (s : State) : (perform s).jobs = s.jobs := by
  unfold perform
  cases s.arbiter.inProgress with
  | none => rfl
  | some a =>
    have hl : (({ s with arbiter := { s.arbiter with inProgress := none } } : State).land a).jobs = s.jobs := by
      unfold State.land
      cases a.write <;> rfl
    dsimp only
    split
    · rw [(progress_mem _ _ _).2, hl]
    · exact hl

end Sys2Proof.Machine
end

