-- ==== Sys2Proof/Laws/Port.lean ====
section
/-! SUPPORT. The command port: what an offered code does, and the field readers of parameters and flags. -/

namespace Sys2Proof.Machine

/-! ### A code offered at offset 2 -/

/-- A code the port takes: the command is carried out on the parameters that were buffered, and completes if it has a
reply (R164, R166). -/
theorem offer_taken {s : State} (h : s.admits) (code : Byte) (body : Command) :
    offer code body s = completeWith (body s.port.params (take code s)) := by
  simp [offer, takes, State.isReady, h.1, h.2]

/-- SOFT_RESET is taken whether or not a command is busy (R164). -/
theorem offer_softReset {s : State} (h : s.phase = .ready) (body : Command) :
    offer Config.codeSoftReset body s = completeWith (body s.port.params (take Config.codeSoftReset s)) := by
  simp [offer, takes, State.isReady, h]

/-- A code offered before READY, or while a command is busy, is refused with CMD_REFUSED (R165). -/
theorem offer_refused {s : State} {code : Byte} (h : s.phase ≠ .held) (ht : takes code s = false) (body : Command) :
    offer code body s = refuseWrite s := by
  simp [offer, h, ht]

/-- While RESET is asserted no code is taken (R132). -/
theorem offer_held {s : State} (h : s.phase = .held) (code : Byte) (body : Command) : offer code body s = s := by
  simp [offer, h]

/-- A refusal by the owning block answers the result code and nothing else (R168). -/
theorem completeWith_refusal (code : Byte) (r : ResultCode) (s : State) :
    completeWith (refusal r (take code s)) = s.answered code r [] := rfl

/-- An acceptance that changes nothing else answers OK. -/
theorem completeWith_accept (code : Byte) (answer : List Byte) (s : State) :
    completeWith (accept answer (take code s)) = s.answered code .ok answer := rfl

@[simp] theorem checked_ok {α : Type} (v : α) (act : α → State × Option Reply) (s : State) :
    checked (.ok v) act s = act v := rfl
@[simp] theorem checked_error {α : Type} (r : ResultCode) (act : α → State × Option Reply) (s : State) :
    checked (.error r) act s = refusal r s := rfl

/-- A code that names no command names the body that answers UNKNOWN_COMMAND (R167). -/
theorem bodyOf_unknown (code : Byte) (h : code ∉ Config.commandCodes) : bodyOf code = unknownBody := by
  have hn : code.toNat ∉ [0x10, 0x11, 0x20, 0x21, 0x30, 0x31, 0x32, 0x33, 0x34, 0x40, 0x41, 0x50, 0x51, 0x60, 0xA5] := by
    intro hc
    apply h
    simpa [Config.commandCodes, ← BitVec.toNat_inj] using hc
  unfold bodyOf
  split <;> first
    | rfl
    | (rename_i hc; rw [hc] at hn; exact absurd (by decide) hn)

/-! ### Byte order (11.6) -/

/-- The low and the high byte of a 16-bit number give it back, low byte first. -/
theorem le16_bytes (n : Nat) (h : n < 65536) : le16 (byteOf n) (byteOf (n / 256)) = n := by
  simp only [le16, byteOf, BitVec.toNat_ofNat]
  omega

/-- A two-byte field lies below 65,536. -/
theorem le16_lt (lo hi : Byte) : le16 lo hi < 65536 := by
  have h1 := lo.isLt
  have h2 := hi.isLt
  simp only [le16]
  omega

/-- The eight bytes of a report record. -/
theorem report_bytes_length (r : Report) : r.bytes.length = 8 := rfl

/-- The bytes of a record, field by field and low byte first (R180). -/
theorem report_bytes (r : Report) :
    r.bytes = [r.kind.code, r.tag, r.handle, r.detail, byteOf r.row.toNat, byteOf (r.row.toNat / 256),
      byteOf r.extra.toNat, byteOf (r.extra.toNat / 256)] := rfl

/-! ### Sticky flags (R172) -/

/-- A flag written with 1 clears and a flag written with 0 stays, for all five at once. -/
theorem clearedBy_zero (f : Sticky) : f.clearedBy 0x00 = f := by
  cases f
  simp [Sticky.clearedBy]

/-- Written with 1 in every place, every flag clears. -/
theorem clearedBy_ones (f : Sticky) : f.clearedBy 0xFF = ⟨false, false, false, false, false⟩ := by
  cases f
  simp [Sticky.clearedBy]

/-! ### The INT pin (R159, R181) -/

/-- INT is low exactly while the interrupt line is asserted. -/
theorem intPin_low (s : State) : s.intPin = .low ↔ s.irqLine = true := by
  unfold State.intPin
  split <;> simp_all

/-! ### The shift clock (R109) -/

/-- Of the four CLKIN periods of a shift-clock period, SCLK goes active in one and in no other. -/
theorem sclkActive_rises_once :
    ∃ i < 4, ∀ k < 4, (sclkActive k = true ∧ sclkActive ((k + 3) % 4) = false) ↔ k = i := by
  refine ⟨Config.sclkLead % 4, Nat.mod_lt _ (by decide), fun k hk => ?_⟩
  unfold sclkActive
  simp only [decide_eq_true_eq, decide_eq_false_iff_not]
  omega

/-! ### The report queue (R154) -/

/-- A read keeps the law of the queue. -/
theorem afterRead_lawful {q : ReportQueue} (h : q.lawful) : q.afterRead.lawful := by
  obtain ⟨h1, h2, h3⟩ := h
  unfold ReportQueue.afterRead
  split
  · exact ⟨h1, h2, h3⟩
  · rename_i r rest hq
    split
    · rename_i hp
      refine ⟨h1, hp, ?_⟩
      intro he
      exact absurd (hq.symm.trans he) (List.cons_ne_nil _ _)
    · refine ⟨?_, Nat.zero_le _, fun _ => rfl⟩
      rw [hq, List.length_cons] at h1
      exact Nat.le_of_succ_le h1

end Sys2Proof.Machine
end

