-- ==== Sys2Proof/Tests/Slice0.lean ====
section
/-! SUPPORT. Checks of well-formedness, tests with expected values from the manual, and a witness for the hypotheses of
every statement. -/

namespace Sys2Proof.Tests

open Sys2Proof Sys2Proof.Machine

/-! ### Small states -/

/-- What a row leaves. -/
def after (c : Instr) (s : State) : State :=
  match exec c s with
  | .next t => t
  | _ => s

/-- The row answers a next state. -/
def goesOn (c : Instr) (s : State) : Bool :=
  match exec c s with
  | .next _ => true
  | _ => false

/-- The parameter buffer filled. -/
def withParams (ps : List Byte) (s : State) : State := { s with port := { s.port with params := ps } }

/-- The result code and the answer of a command carried out with the parameters given. -/
def run (c : Instr) (ps : List Byte) (s : State) : ResultCode × List Byte :=
  let t := after c (withParams ps s)
  (t.port.result, t.port.answer)

/-- The part READY at its power-on configuration (11.1). -/
def ready : State := { State.reset with phase := .ready }

/-- A small head and ring: 64 dots in 2 groups, pre-heat 4 us, two bands of 8 lines at 0000h, zone 0000h to 007Fh. -/
def small : State :=
  { ready with
    headCfg := ⟨16, 64, 2, 4, 8, 10⟩
    ring := ⟨0, 8, 2, [none, none], 0⟩
    head := ⟨.idle, List.replicate 8 0x00, false, false⟩ }

/-- A job of 24 rows with 2 trailing rows. -/
def jobOf (tag : Byte) (state : JobState) : Job := ⟨tag, 24, 2, .blank, state, 24, 0, 0, 0⟩

/-- A bar of 8 by 4 at row 2, column 3. -/
def bar (handle : Nat) (tag : Byte) (active : Bool) : Placement :=
  ⟨handle, tag, .bar, .setOr, false, true, 2, 3, 8, 4, none, active, 5⟩

/-- A CLOSED job whose rows 0 to 7 are composed and READY in band 0, the second band being composed, the head ARMED. -/
def armed : State :=
  { small with
    jobs := ⟨some { jobOf 0x20 .closed with rendered := 8 }, none⟩
    ring := ⟨0, 8, 2, [some ⟨.ready, 0x20, 0, 8⟩, some ⟨.rendering, 0x20, 8, 8⟩], 0⟩
    renderer := .rendering ⟨1, 0x20, 8, 8, [], [], .finished⟩
    head := { small.head with mode := .armed } }

/-- The same job with row 0 in flight. -/
def inLine (phase : LinePhase) (line : Line) : State :=
  { armed with
    ring := ⟨0, 8, 2, [some ⟨.printing, 0x20, 0, 8⟩, some ⟨.rendering, 0x20, 8, 8⟩], 0⟩
    head := { armed.head with mode := .inFlight phase line } }

/-- Row 0 with the dots of its first byte, and of its last when both is set. -/
def row0 (both : Bool) (group : Nat) (ending : Bool) : Line :=
  let bytes : List Byte := [0x80, 0, 0, 0, 0, 0, 0, if both then 0x01 else 0x00]
  ⟨0, 0x20, 0, 0, bytes, bytes, group, ending⟩

/-- Row 0 at the start of its fetch. -/
def fetching (m : Memory) : State :=
  { inLine .fetch { row0 false 0 false with bytes := [], newDots := [] } with mem := m }

/-- A job that is OPEN and alone, its renderer waiting for its commit row. -/
def opened (commit : Nat) : State :=
  { small with
    jobs := ⟨some { jobOf 0x20 .opened with commitRow := commit }, none⟩
    renderer := .waitCommit ⟨0x20, 0, 8⟩
    head := { small.head with mode := .waitLine } }

/-- A segment of one row at 4000h with so many bytes left. -/
def segmentOf (d : Direction) (left : Nat) : Segment := ⟨d, 0x4000, 4, 1, 4, true, 0x4000, 0, left⟩

/-- A current segment with a FIFO. -/
def uploading (d : Direction) (left : Nat) (fifo : List Byte) : State :=
  { ready with upload := ⟨some (segmentOf d left), none, fifo⟩ }

/-! ### Well-formedness: the ill-formed term each check refuses -/

theorem test_wf_unknown_code : (Instr.unknownCommand 0x10).wf = false ∧ (Instr.unknownCommand 0x12).wf = true := by decide
theorem test_wf_discarded_offset :
    (Instr.registerWriteDiscarded 0x2 0x00).wf = false ∧ (Instr.registerWriteDiscarded 0x9 0x00).wf = true := by decide
theorem test_no_word_spells_a_row : decodeTableWord 8 0xA5 = none := rfl

/-! ### The sequences of chapter 11 -/

/-- 11.1: STATUS after the release of RESET, and after the clear. -/
theorem test_status_11_1 :
    State.reset.statusByte = 0x44 ∧ (after .powerOnClearComplete State.reset).statusByte = 0x45 := by decide
/-- 11.1: SET_HEAD 10h 80h 01h 02h 19h 4Bh 32h. -/
theorem test_set_head_11_1 :
    (after .setHead (withParams [0x10, 0x80, 0x01, 0x02, 0x19, 0x4B, 0x32] ready)).headCfg =
      ⟨16, 384, 2, 100, 600, 500⟩ := by decide
/-- 11.1: OPEN_JOB 01h 30h 00h 10h 00h 00h leaves JOB_STATE 01h and HEAD_STATE 01h. -/
theorem test_open_job_11_1 :
    let t := after .openJob (withParams [0x01, 0x30, 0x00, 0x10, 0x00, 0x00] ready)
    t.readRegister 0xA = 0x01 ∧ t.readRegister 0x9 = 0x01 ∧ t.renderer = .waitCommit ⟨0x01, 0, 16⟩ := by decide

/-- The job of 11.1, and with its frame bar placed. -/
def label1 : State := after .openJob (withParams [0x01, 0x30, 0x00, 0x10, 0x00, 0x00] ready)
@[inherit_doc label1] def label2 : State :=
  after .place (withParams [0x03, 0x00, 0x00, 0x00, 0x00, 0x00, 0x00, 0x00, 0x00, 0x80, 0x01, 0x04, 0x00] label1)

/-- 11.1: the answers of the two placements. -/
theorem test_place_11_1 :
    label2.port.answer = [0x00, 0x80, 0x01, 0x04, 0x00, 0x03, 0x00] ∧
    run .place [0x01, 0x00, 0x0A, 0x00, 0x08, 0x00, 0x00, 0x00, 0x00, 0x00, 0x48, 0x45, 0x4C, 0x4C, 0x4F] label2 =
      (.ok, [0x01, 0x3C, 0x00, 0x18, 0x00, 0x21, 0x00]) := by decide
/-- 11.1: CLOSE_JOB leaves JOB_STATE 02h and band 0 claimed for rows 0 to 15, claim index 1. -/
theorem test_close_job_11_1 :
    let t := after .closeJob label2
    t.readRegister 0xA = 0x02 ∧ t.ring.bandAt 0 = some ⟨.rendering, 0x01, 0, 16⟩ ∧ t.ring.claim = 1 ∧
      t.placements.map Placement.active = [true] := by decide

/-- 11.3: the part before the first step of the underrun. -/
def under : State :=
  { ready with
    jobs := ⟨some ⟨0x20, 24, 0, .blank, .closed, 24, 16, 16, 0⟩, none⟩
    ring := ⟨0, 16, 4, [none, some ⟨.rendering, 0x20, 16, 8⟩, none, none], 2⟩
    placements := [⟨3, 0x20, .bar, .replace, false, true, 16, 0, 8, 5, none, true, 20⟩]
    renderer := .rendering ⟨1, 0x20, 16, 8, [3], [⟨3, 0⟩], .clearing 384⟩
    head := { Head.reset with mode := .waitLine } }

/-- 11.3: one step consumes row 16 blank and posts UNDERRUN (20h, 16). -/
theorem test_underrun_11_3 :
    let t := after .lineStep under
    t.jobs.front.map Job.done = some 17 ∧ t.reports.records = [⟨.underrun, 0x20, 0xFF, 0x00, 16, 0⟩] := by decide
/-- 11.3 and R180: the eighth step completes the job, and JOB_DONE reads 02h 20h FFh 00h 18h 00h 08h 00h. -/
theorem test_job_done_11_3 :
    let s := { under with jobs := ⟨some ⟨0x20, 24, 0, .blank, .closed, 24, 16, 23, 7⟩, none⟩ }
    let t := after .lineStep s
    t.jobs.isEmpty = true ∧ t.ring.bands = [none, none, none, none] ∧ t.ring.claim = 2 ∧ t.placements = [] ∧
      (t.reports.records.getLast?.map Report.bytes) = some [0x02, 0x20, 0xFF, 0x00, 0x18, 0x00, 0x08, 0x00] := by decide

/-- 11.4: the part in the hot hold of row 50, with a step latched. -/
def hot : State :=
  { ready with
    hot := true
    jobs := ⟨some ⟨0x30, 80, 0, .abort, .closed, 80, 80, 50, 0⟩, some ⟨0x31, 80, 0, .blank, .closed, 80, 16, 0, 0⟩⟩
    ring := ⟨0, 16, 4, [some ⟨.printing, 0x30, 48, 16⟩, some ⟨.ready, 0x30, 64, 16⟩, some ⟨.ready, 0x31, 0, 16⟩,
      some ⟨.rendering, 0x31, 16, 16⟩], 0⟩
    renderer := .rendering ⟨3, 0x31, 16, 16, [], [], .clearing 768⟩
    head := { Head.reset with
      mode := .inFlight (.hold .main 8000000) ⟨50, 0x30, 0, 96, List.replicate 48 0xFF, List.replicate 48 0x00, 2, false⟩
      latch := true, started := true } }

/-- 11.4: the timer's expiry reports JOB_ABORTED (30h, HEAD_HOT, row 50), frees bands 0 and 1, leaves the claim index, and
serves the latch against 31h. -/
theorem test_hot_hold_11_4 :
    let t := after .hotHoldExpire hot
    t.reports.records = [⟨.jobAborted, 0x30, 0xFF, 0x04, 50, 0⟩] ∧ t.ring.claim = 0 ∧ t.readRegister 0x9 = 0x03 ∧
      t.ring.bands = [none, none, some ⟨.printing, 0x31, 0, 16⟩, some ⟨.rendering, 0x31, 16, 16⟩] ∧
      t.jobs.front.map Job.tag = some 0x31 := by decide

/-- 11.5: DEFINE_GLYPH 88h of 24 by 24 at 6140h, and its footprint of 72 bytes. -/
theorem test_define_glyph_11_5 :
    (after .defineGlyph (withParams [0x88, 0x18, 0x18, 0x1A, 0x40, 0x61] ready)).glyph 0x88 = .ram ⟨24, 24, 26, 0x6140⟩ ∧
      (RamGlyph.mk 24 24 26 0x6140).footprint = 72 := by decide
/-- 11.5: LOAD_SEGMENT A of 4 rows of 40 bytes at 6000h leaves 160 bytes and its span ends at 609Fh. -/
theorem test_load_segment_11_5 :
    (after .loadSegment (withParams [0x00, 0x00, 0x60, 0x28, 0x00, 0x04, 0x00, 0x28, 0x00] ready)).upload.cur.map
      (fun g => (g.bytesLeft, g.spanEnd)) = some (160, 0x60A0) := by decide

/-- R20: a step lost during the pulse of an ABORTING job keeps the first cause; the line is ending. -/
theorem test_first_cause_kept :
    let s := inLine (.strobe .main 3) (row0 false 1 false)
    let a := after .abortJob (withParams [0x20] s)
    let t := after .lineStep (after .lineStep a)
    t.jobs.front.map Job.state = some (.aborting .host) ∧
      (after .strobePulseEnd t).reports.records = [⟨.jobAborted, 0x20, 0xFF, 0x01, 0, 0⟩] := by decide

/-! ### Bits and bytes of chapter 11.6 -/

/-- R125: a glyph 12 dots wide with its outer four dots set has the row bytes C0h 30h. -/
theorem test_bitmap_row :
    (List.range 12).map (dotIn [0xC0, 0x30]) =
      [true, true, false, false, false, false, false, false, false, false, true, true] := by decide
/-- R28: the four operations, dot by dot. -/
theorem test_combine :
    [CombineOp.setOr, .xor, .clear, .replace].map (fun o =>
      [combineDot o false false, combineDot o false true, combineDot o true false, combineDot o true true]) =
    [[false, true, true, true], [false, true, true, false], [false, false, true, false], [false, true, false, true]] := by
  decide
/-- R48: the blank and the solid ROM glyph. -/
theorem test_rom_blank_and_solid :
    romDot 0x20 5 5 = false ∧ romDot 0x7F 23 11 = true ∧ romDot 0x7F 24 0 = false ∧ romDot 0x41 1 5 = false := by decide
/-- R153: a seventeenth report is dropped with REPORTS_LOST. -/
theorem test_seventeenth_report :
    let s : State := { ready with reports := ⟨List.replicate 16 (reportPrintStarted 0x01), 0⟩ }
    let t := post (reportPrintStarted 0x02) s
    t.reports = s.reports ∧ t.readRegister 0xF = 0x10 := by decide
/-- R111: the first pulse of a job posts PRINT_STARTED, and the next one does not. -/
theorem test_print_started_once :
    let t := after .shiftEnd (inLine (.shift .main 1) (row0 true 0 false))
    t.readRegister 0x9 = 0x07 ∧ t.reports.records = [⟨.printStarted, 0x20, 0xFF, 0x00, 0, 0⟩] ∧
      (after .strobePulseEnd t).reports = t.reports := by decide
/-- R49: after RESTORE_GLYPH code 41h is ROM again. -/
theorem test_restore_glyph :
    (after .restoreGlyph (withParams [0x41] { ready with glyphs := [⟨0x41, ⟨8, 8, 8, 0x4000⟩⟩] })).glyph 0x41 = .rom := by
  decide
/-- R133: while the clear runs a CMD write is refused with CMD_REFUSED. -/
theorem test_not_ready : (after .setHead State.reset).readRegister 0xF = 0x01 := by decide

/-- R122: SOFT_RESET in a shift, a pulse and a FETCH leaves the strobe lines, the latch pulse and the dots inactive. -/
theorem test_soft_reset_pins :
    ∀ phase ∈ [LinePhase.shift .main 4, .strobe .main 3, .fetch],
      let t := after .softReset (inLine phase (row0 true 1 false))
      (t.strobe 1, t.latchPulse, t.sdata, t.feedreq) = (false, false, false, false) ∧ t.head.mode.flight = none := by decide
/-- R122: with the line gone SCLK stands at its inactive level. -/
theorem test_soft_reset_sclk : (after .softReset (inLine (.shift .main 4) (row0 true 1 false))).sclk = Config.sclkIdle := rfl
/-- R109: the first dot of the line on the first shift-clock period, and the latch pulse on the last one alone. -/
theorem test_shift_pins :
    let s := fun n => inLine (.shift .main n) (row0 false 0 false)
    (s 260).sdata = true ∧ (s 256).sdata = false ∧ (s 5).latchPulse = false ∧ (s 4).latchPulse = true := by decide
/-- R159, R181: INT is low while DONE is pending and enabled, and released when it is cleared. -/
theorem test_int_pin :
    let s := after (.irqEnWrite 0x08) (after (.unknownCommand 0x00) ready)
    s.intPin = .low ∧ (after (.irqPendWrite 0x08) s).intPin = .released := by decide

/-- R111 as log entry 27 reads it: the first pulse of a job aborted by HOST in its first shift posts PRINT_STARTED. -/
theorem test_print_started_aborting :
    let s := after .abortJob (withParams [0x20] (inLine (.shift .main 1) (row0 false 0 false)))
    (after .shiftEnd s).reports.records = [⟨.printStarted, 0x20, 0xFF, 0x00, 0, 0⟩] := by decide

/-! ### Witnesses: states that meet the hypotheses of the statements, clause by clause -/

theorem witness_StepRunsTheFrontRow :
    ({ ready with pending := [.lineStep, .answerRead] } : State).pending = .lineStep :: [.answerRead] := rfl
theorem witness_RowsLeaveTheQueue :
    goesOn .lineStep { ready with pending := [.answerRead] } = true := by decide
/-- A refused command: BAD_LENGTH of SET_HEAD with an empty buffer. -/
theorem witness_RefusedCommandChangesOnlyThePort :
    (Instr.setHead, (0x10 : Byte)) ∈ commandRows ∧ ready.admits ∧ goesOn .setHead ready = true ∧
      (after .setHead ready).port.result ≠ .ok ∧ (after .setHead ready).port.busy = false := by decide
/-- Before READY, and READY with a command busy. -/
theorem witness_BusyOrUnreadyPortRefuses :
    (∃ a, State.reset.phase = .clearing a) ∧ (Instr.softReset = .softReset → State.reset.phase ≠ .ready) ∧
      (let s : State := { ready with port := { ready.port with busy := true } }
      s.phase = .ready ∧ s.port.busy = true ∧ (Instr.proof = .softReset → s.phase ≠ .ready) ∧
        ((0x60 : Byte) = 0xA5 → s.phase ≠ .ready)) :=
  ⟨⟨0, rfl⟩, by decide, by decide⟩
theorem witness_UnknownCodeCompletesAtOnce :
    (0x00 : Byte) ∉ Config.commandCodes ∧ (0xFF : Byte) ∉ Config.commandCodes ∧ ready.admits := by decide
/-- The buffer at 47 and at 48 bytes; the answer at its last byte and past it. -/
theorem witness_ParamAndAnswerBuffers :
    ready.phase ≠ .held ∧
      (after (.paramWrite 0x01) (withParams (List.replicate 47 0x00) ready)).port.params.length = 48 ∧
      (after (.paramWrite 0x01) (withParams (List.replicate 48 0x00) ready)).port.sticky.paramSpill = true ∧
      (after .answerRead { ready with port := { ready.port with answer := [0x01, 0x02], answerPos := 1 } }).dataOut = 0x02 ∧
      (after .answerRead { ready with port := { ready.port with answer := [0x01, 0x02], answerPos := 2 } }).dataOut = 0x00 := by
  decide
theorem witness_FlagWritesAndDiscardedWrites : ready.phase ≠ .held ∧ (0xE : BitVec 4) ∈ discardedOffsets := by decide
/-- R177: the offsets read together, of a part with two jobs, both slots loaded and PROOF refused. -/
theorem test_registers_read :
    let s := { armed with
      jobs := ⟨some { jobOf 0x20 (.aborting .host) with rendered := 8 }, some (jobOf 0x21 .opened)⟩
      upload := ⟨some (segmentOf .dirIn 4), some (segmentOf .dirOut 4), []⟩
      port := { ready.port with result := .notHeld, cmd := 0x60, params := [1, 2] }
      irq := { ready.irq with input := true, enable := ⟨true, false, false, true⟩ } }
    [0x1, 0x2, 0x3, 0x7, 0x8, 0x9, 0xA, 0xB, 0xE, 0xF].map s.readRegister =
      [0x0F, 0x60, 0x00, 0x04, 0x09, 0x02, 0x07, 0x0D, 0x02, 0x00] := by decide
/-- A done row above 65,535; a row and an internal step that leave the capture; the window with a byte of room and without; the
INT pin low and released; FEEDREQ up and down; the head's pins in RESET and with no line in flight; the last dot of a
shift. -/
theorem witness_RowDoneReadsWithoutTearing :
    (let s : State := { ready with jobs := ⟨some { jobOf 0x20 .closed with done := 65536 + 0x1234 }, none⟩ }
    s.phase ≠ .held ∧ (after .rowDoneLowRead s).dataOut = 0x34 ∧ (after .rowDoneLowRead s).port.capture = 0x12) ∧
      (let s : State := { ready with port := { ready.port with capture := 0x12 } }
      Instr.lineStep.wf = true ∧ Instr.lineStep ≠ .rowDoneLowRead ∧ goesOn .lineStep s = true ∧ s.pending = []) ∧
      (uploading .dirIn 4 [1, 2, 3]).readRegister 0x0 = 0x4D ∧ (uploading .dirIn 4 [1, 2, 3, 4]).dreq = false ∧
      (uploading .dirOut 4 [1]).dreq = true ∧ (uploading .dirOut 4 []).dreq = false ∧
      (let s : State := { ready with irq := { ready.irq with done := true, enable := ⟨false, false, false, true⟩ } }
      s.intPin = .low ∧ { s with irq := { s.irq with done := false } }.intPin = .released) ∧
      armed.feedreq = true ∧ (after (.paperChange false) armed).feedreq = false ∧
      (after .resetAsserted armed).phase = .held ∧ armed.head.mode.flight = none ∧ armed.phase ≠ .held ∧
      63 < armed.headCfg.dots ∧ (inLine (.strobe .main 3) (row0 false 2 false)).strobe 2 = true := by decide
theorem witness_NothingIsTakenWhileResetIsAsserted : (after .resetAsserted ready).phase = .held := by decide
/-- A queue with one record at a record boundary, at its eighth byte, and empty. -/
theorem witness_ReportReadsReturnTheHeadRecord :
    let r := reportPrintStarted 0x20
    ({ ready with reports := ⟨r :: [], 0⟩ } : State).reports = ⟨r :: [], 0⟩ ∧
      (after .reportRead { ready with reports := ⟨[r], 7⟩ }).reports = ⟨[], 0⟩ ∧
      (after .reportRead { ready with reports := ⟨[r], 6⟩ }).reports = ⟨[r], 7⟩ ∧
      (after .reportRead ready).reports = ⟨[], 0⟩ := by decide
/-- LOAD_SEGMENT: each check at a boundary, and both effects. -/
theorem witness_LoadSegmentChecksThenLoads :
    ready.admits ∧ (run .loadSegment [0x00] ready).1 = .badLength ∧
      (run .loadSegment [0x04, 0x00, 0x40, 0x01, 0x00, 0x01, 0x00, 0x01, 0x00] ready).1 = .badParam ∧
      (run .loadSegment [0x00, 0x00, 0x40, 0x01, 0x01, 0x01, 0x00, 0x01, 0x01] ready).1 = .badParam ∧
      (run .loadSegment [0x03, 0xFF, 0xFF, 0x01, 0x00, 0x01, 0x00, 0x01, 0x00] ready).1 = .ok ∧
      (run .loadSegment [0x00, 0xFF, 0xFF, 0x02, 0x00, 0x01, 0x00, 0x02, 0x00] ready).1 = .range ∧
      (run .loadSegment [0x00, 0x7F, 0x00, 0x01, 0x00, 0x01, 0x00, 0x01, 0x00] (opened 0)).1 = .zone ∧
      (run .loadSegment [0x00, 0x80, 0x00, 0x01, 0x00, 0x01, 0x00, 0x01, 0x00] (opened 0)).1 = .ok ∧
      (after .loadSegment (withParams [0x00, 0x00, 0x40, 0x01, 0x00, 0x01, 0x00, 0x01, 0x00]
        (uploading .dirIn 4 []))).upload.nxt.isSome = true ∧
      (run .loadSegment [0x00, 0x00, 0x40, 0x01, 0x00, 0x01, 0x00, 0x01, 0x00]
        { ready with upload := ⟨some (segmentOf .dirIn 4), some (segmentOf .dirIn 4), []⟩ }).1 = .slotsFull := by decide
theorem witness_StopUploadEmptiesTheChannel :
    (uploading .dirOut 3 [0x01]).admits ∧ (run .stopUpload [] (uploading .dirOut 3 [0x01])) = (.ok, [0x03, 0x00, 0x00]) ∧
      (run .stopUpload [0x00] ready).1 = .badLength := by decide
/-- The FIFO at 7 and at 8 bytes, and with no more bytes to go than it holds. -/
theorem witness_DataWriteJoinsTheFifoOrSpills :
    let s := { uploading .dirIn 4 [] with upload := ⟨some { segmentOf .dirIn 9 with rows := 3 }, none, List.replicate 7 0x00⟩ }
    s.phase ≠ .held ∧ (after (.dataWrite 0x01) s).upload.fifo.length = 8 ∧
      (after (.dataWrite 0x02) (after (.dataWrite 0x01) s)).port.sticky.dataSpill = true ∧
      (after (.dataWrite 0x01) (uploading .dirIn 1 [0x00])).port.sticky.dataSpill = true := by decide
/-- Bytes to go on, the last byte, and no byte. -/
theorem witness_DataReadTakesTheHeadOrFallsShort :
    (uploading .dirOut 2 [0x05]).upload.cur = some (segmentOf .dirOut 2) ∧
      (after .dataRead (uploading .dirOut 2 [0x05])).dataOut = 0x05 ∧
      (after .dataRead (uploading .dirOut 1 [0x05])).upload.cur = none ∧
      (after .dataRead (uploading .dirOut 1 [])).port.sticky.dataShort = true := by decide
/-- A store that goes on, the store of the last byte, and a prefetch with the FIFO at 7 bytes. -/
theorem witness_UploadAccessesMoveOneByte :
    (uploading .dirIn 2 [0x05]).quiet ∧ (uploading .dirIn 2 [0x05]).mem.wf = true ∧
      (uploading .dirIn 2 [0x05]).upload.cur = some (segmentOf .dirIn 2) ∧ (segmentOf .dirIn 2).cursor < 65536 ∧
      Memory.read (after .uploadStore (uploading .dirIn 2 [0x05])).mem 0x4000 = 0x05 ∧
      (after .uploadStore (uploading .dirIn 1 [0x05])).reports.records.length = 1 ∧
      (after .uploadPrefetch (uploading .dirOut 8 (List.replicate 7 0x01))).upload.fifo.length = 8 := by decide
theorem witness_SetHeadChecksThenConfigures :
    small.admits ∧ (run .setHead [] (opened 0)).1 = .badState ∧ (run .setHead [] small).1 = .badLength ∧
      (run .setHead [11, 64, 0, 1, 0, 1, 1] small).1 = .badParam ∧ (run .setHead [12, 64, 0, 8, 0, 1, 1] small).1 = .ok ∧
      (run .setHead [24, 0, 4, 8, 113, 255, 1] small).1 = .ok ∧ (run .setHead [24, 0, 4, 8, 116, 255, 1] small).1 = .badParam ∧
      (run .setHead [16, 0, 4, 1, 0, 1, 1] { small with ring := ⟨0xFFF0, 8, 2, [none, none], 0⟩ }).1 = .range := by decide
theorem witness_SetBandsChecksThenConfigures :
    small.admits ∧ (run .setBands [] (opened 0)).1 = .badState ∧ (run .setBands [] small).1 = .badLength ∧
      (run .setBands [0x08, 0x00, 8, 2] small).1 = .badParam ∧ (run .setBands [0x00, 0x00, 8, 1] small).1 = .badParam ∧
      (run .setBands [0x80, 0xFF, 8, 2] small).1 = .ok ∧ (run .setBands [0x90, 0xFF, 8, 2] small).1 = .range := by decide
theorem witness_SoftResetEmptiesTheBlocks :
    ({ ready with port := { ready.port with busy := true } } : State).phase = .ready := rfl
theorem witness_DefineGlyphChecksThenDefines :
    small.admits ∧ (run .defineGlyph [] small).1 = .badLength ∧
      (run .defineGlyph [0x41, 33, 1, 1, 0, 0x40] small).1 = .badParam ∧
      (run .defineGlyph [0x41, 32, 64, 40, 0x00, 0xFF] small).1 = .ok ∧
      (run .defineGlyph [0x41, 32, 64, 40, 0x01, 0xFF] small).1 = .range ∧
      (run .defineGlyph [0x41, 8, 1, 1, 0x7F, 0x00] small).1 = .zone ∧
      (run .defineGlyph [0x41, 8, 1, 1, 0x80, 0x00] small).1 = .ok := by decide
theorem witness_RestoreGlyphGivesThePowerOnDescriptor :
    small.admits ∧ (run .restoreGlyph [] small).1 = .badLength ∧ (run .restoreGlyph [0x20] small).1 = .ok := by decide
theorem witness_OpenJobChecksThenOpens :
    small.admits ∧ (run .openJob [] (opened 0)).1 = .badState ∧ (run .openJob [] small).1 = .badLength ∧
      (run .openJob [0x20, 0, 0, 0, 0, 0] small).1 = .badParam ∧ (run .openJob [0x20, 1, 0, 0xFF, 0x0F, 1] small).1 = .ok ∧
      (run .openJob [0x20, 1, 0, 0x00, 0x10, 1] small).1 = .badParam ∧
      (run .openJob [0x20, 1, 0, 0, 0, 0] armed).1 = .dupTag ∧ (run .openJob [0x21, 1, 0, 0, 0, 0] armed).1 = .ok ∧
      (run .openJob [0x20, 1, 0, 0, 0, 0] { small with upload :=
        ⟨some { segmentOf .dirIn 4 with address := 0x007F }, none, []⟩ }).1 = .zone := by decide
theorem witness_CommitRaisesTheCommitRow :
    small.admits ∧ small.jobs.openJob = none ∧ (opened 8).admits ∧
      (opened 8).jobs.openJob = some { jobOf 0x20 .opened with commitRow := 8 } ∧
      (run .commit [] (opened 8)).1 = .badLength ∧ (run .commit [7, 0] (opened 8)).1 = .badParam ∧
      after .commit (withParams [8, 0] (opened 8)) = (opened 8).answered 0x31 .ok [] ∧
      (after .commit (withParams [0xFF, 0xFF] (opened 8))).jobs.front.map Job.commitRow = some 24 := by decide
theorem witness_CloseJobCommitsTheLength :
    small.admits ∧ small.jobs.openJob = none ∧ (opened 0).admits ∧
      (opened 0).jobs.openJob = some { jobOf 0x20 .opened with commitRow := 0 } ∧
      (run .closeJob [0] (opened 0)).1 = .badLength ∧ (run .closeJob [] (opened 0)).1 = .ok := by decide
/-- The front job in its pulse, a PRINTING band kept and the RENDERING one freed; and a back job, whose bands are claimed again. -/
theorem witness_AbortJobWithALineInFlightWaits :
    (let s := withParams [0x20] (inLine (.strobe .main 3) (row0 false 1 false))
    s.admits ∧ s.port.params = [0x20] ∧ s.jobs.front = some { jobOf 0x20 .closed with rendered := 8 } ∧
      s.head.lineInFlight = true ∧ s.jobs.find 0x21 = none ∧ (∀ k ∈ s.jobs.back, k.tag ≠ 0x20) ∧
      (run .abortJob [] s).1 = .badLength ∧ (run .abortJob [0x21] s).1 = .noJob ∧
      (run .abortJob [0x20] (after .abortJob s)).1 = .badState ∧
      (after .abortJob s).ring = ⟨0, 8, 2, [some ⟨.printing, 0x20, 0, 8⟩, none], 1⟩) ∧
    (let s : State := { small with
      jobs := ⟨some { jobOf 0x20 .closed with rendered := 24, done := 16 }, some { jobOf 0x21 .closed with rendered := 8 }⟩
      ring := ⟨0, 8, 3, [some ⟨.ready, 0x20, 16, 8⟩, some ⟨.ready, 0x21, 0, 8⟩, some ⟨.rendering, 0x21, 8, 8⟩], 0⟩
      renderer := .rendering ⟨2, 0x21, 8, 8, [], [], .finished⟩ }
    (s.jobs.find 0x21).map Job.isAborting = some false ∧
      (after .abortJob (withParams [0x21] s)).ring = ⟨0, 8, 3, [some ⟨.ready, 0x20, 16, 8⟩, none, none], 1⟩) := by decide
/-- The front job with no line in flight, and the back job behind a line in flight. -/
theorem witness_AbortJobWithNoLineInFlightEndsAtOnce :
    (armed.admits ∧ armed.jobs.front = some { jobOf 0x20 .closed with rendered := 8 } ∧ armed.head.lineInFlight = false ∧
      ∀ k ∈ armed.jobs.back, k.tag ≠ 0x20) ∧
    (let s := withParams [0x21] (inLine .fetch (row0 false 0 false))
    let s := { s with jobs := ⟨s.jobs.front, some (jobOf 0x21 .closed)⟩ }
    s.admits ∧ s.port.params = [0x21] ∧ (jobOf 0x21 .closed).isAborting = false ∧
      s.jobs.back = some (jobOf 0x21 .closed) ∧ ∃ k ∈ s.jobs.front, k.tag ≠ 0x21) := by decide
theorem witness_QueryJobAnswersTheRecord :
    armed.admits ∧ armed.jobs.find 0x20 = some { jobOf 0x20 .closed with rendered := 8 } ∧ armed.jobs.find 0x21 = none ∧
      (run .queryJob [] armed).1 = .badLength ∧
      run .queryJob [0x20] armed = (.ok, [0x20, 0, 2, 0, 24, 0, 2, 0, 24, 0, 8, 0, 0, 0, 0, 0, 0, 0]) := by decide
theorem witness_PlaceBarChecksThenAccepts :
    let s := opened 2
    let ps : List Byte := [3, 0, 2, 0, 3, 0, 0, 0, 0, 1, 0, 1, 0]
    s.admits ∧ s.jobs.openJob = some { jobOf 0x20 .opened with commitRow := 2 } ∧ small.jobs.openJob = none ∧
      (run .place ps small).1 = .badState ∧ (run .place (ps.take 8) s).1 = .badLength ∧
      (run .place (4 :: ps.tail) s).1 = .badParam ∧ (run .place (ps.take 12) s).1 = .badLength ∧
      (run .place (ps.set 6 1) s).1 = .badParam ∧ (run .place (ps.set 1 0x04) s).1 = .badParam ∧
      (run .place ((ps.set 6 2).set 7 1) s).1 = .ok ∧ (run .place (ps.set 11 0) s).1 = .badParam ∧
      (run .place (ps.set 2 24) s).1 = .range ∧ (run .place (ps.set 2 23) s).1 = .ok ∧
      (run .place (ps.set 2 1) s).1 = .late ∧ (run .place ps s).1 = .ok ∧
      (run .place ps { s with placements := (List.range 64).map fun i => bar i 0x20 false }).1 = .tableFull := by decide
theorem witness_PlaceImageChecksThenAccepts :
    let s := opened 2
    let ps : List Byte := [2, 0, 2, 0, 3, 0, 0, 0, 0, 9, 0, 2, 0, 0x00, 0x40, 2]
    s.admits ∧ paramByte ps 0 = 2 ∧ (run .place (ps.take 15) s).1 = .badLength ∧ (run .place (ps.set 15 1) s).1 = .badParam ∧
      (run .place (ps.set 15 129) s).1 = .badParam ∧ (run .place ps s).1 = .ok ∧ (run .place (ps.set 2 24) s).1 = .range ∧
      (run .place (ps.set 2 1) s).1 = .late ∧ (run .place ((ps.set 13 0xFC).set 14 0xFF) s).1 = .ok ∧
      (run .place ((ps.set 13 0xFD).set 14 0xFF) s).1 = .range ∧ (run .place ((ps.set 13 0x7F).set 14 0) s).1 = .zone ∧
      (run .place ((ps.set 13 0x80).set 14 0) s).1 = .ok := by decide
theorem witness_PlaceGlyphsChecksThenAccepts :
    let s := opened 2
    let ps : List Byte := [1, 0, 2, 0, 3, 0, 0, 0, 0, 15, 0x41]
    s.admits ∧ paramByte ps 0 = 1 ∧ (run .place (ps.take 10) s).1 = .badLength ∧
      (run .place (ps ++ List.replicate 32 0x41) s).1 = .badLength ∧ (run .place (ps ++ List.replicate 31 0x41) s).1 = .ok ∧
      (run .place (ps.set 9 16) s).1 = .badParam ∧ (run .place (ps.set 2 24) s).1 = .range ∧
      (run .place (ps.set 2 1) s).1 = .late ∧ (run .place (ps.set 10 0x80) s).1 = .badGlyph ∧
      (run .place ((ps.set 6 2).set 7 23) s).1 = .badParam ∧ (run .place ((ps.set 6 2).set 7 24) s).1 = .ok := by decide
theorem witness_WithdrawFreesAPendingPlacement :
    let s := { opened 0 with placements := [bar 0 0x20 true, bar 63 0x20 false] }
    s.admits ∧ (run .withdraw [] s).1 = .badLength ∧ (run .withdraw [64] s).1 = .badParam ∧
      (run .withdraw [1] s).1 = .noSuchHandle ∧ (run .withdraw [0] s).1 = .tooLate ∧ (run .withdraw [63] s).1 = .ok := by
  decide
/-- The row held in band 0 (its last row), a row that no band holds, and a wrong length. -/
theorem witness_ProofBeginsTheCopyOfAHeldRow :
    armed.admits ∧ (run .proof [] armed).1 = .badLength ∧ (run .proof [0x20, 8, 0] armed).1 = .notHeld ∧
      armed.jobs.find 0x20 = some { jobOf 0x20 .closed with rendered := 8 } ∧
      armed.ring.bandAt 0 = some ⟨.ready, 0x20, 0, 8⟩ ∧
      armed.rowHeld { jobOf 0x20 .closed with rendered := 8 } 7 ⟨.ready, 0x20, 0, 8⟩ ∧
      (after .proof (withParams [0x20, 7, 0] armed)).port.proof = some ⟨0, 56, []⟩ := by decide
theorem witness_ProofCopyCompletesWithTheLine :
    let s := after .proof (withParams [0x20, 7, 0] { armed with mem := [(56, 0x80)] })
    s.port.proof = some ⟨0, 56, []⟩ ∧ s.quiet ∧ 56 + s.headCfg.dots / 8 ≤ 65536 ∧
      (after .proofCopyComplete s).port.answer = [0x80, 0, 0, 0, 0, 0, 0, 0] := by decide
/-- The copy's own access in progress, and the internal step at its last one beside a strobe pulse. -/
theorem witness_ProofCopyCompletesWithTheLine_step :
    let copying := fun (n : Nat) (s : State) => { s with
      port := { s.port with busy := true, proof := some ⟨0, 56, List.replicate n 0x00⟩ }
      arbiter := ⟨some ⟨.rotating .port, 56 + n, none, true⟩, .port⟩ }
    (after .proofCopyComplete (copying 3 armed)).port.answer.length = 8 ∧
      (let s := copying 7 { inLine (.strobe .main 3) (row0 false 1 false) with renderer := .idle }
      let u := timers s
      s.pending = [] ∧ s.phase = .ready ∧ s.atReading = false ∧ u.port.proof = s.port.proof ∧
        u.arbiter.inProgress = some ⟨.rotating .port, 56 + 7, none, true⟩ ∧
        u.composed = false ∧
        (∀ x ∈ u.head.mode.flight, x.1 = .fetch → x.2.bytes.length < u.headCfg.dots / 8)) := by decide
theorem witness_ResetPinGivesThePowerOnValues :
    (after .resetAsserted armed).phase = .held ∧ (after .resetReleased (after .resetAsserted armed)).phase = .clearing 0 := by
  decide
theorem witness_PowerOnClearEndsReady :
    State.reset.phase = .clearing 0 ∧ State.reset.quiet ∧
      Memory.read (after .powerOnClearComplete { State.reset with mem := [(3, 0x01), (65535, 0x02)] }).mem 65535 = 0x00 := by
  decide
/-- The clear's own write in progress at an address and at the last one. -/
theorem witness_PowerOnClearEndsReady_step :
    let s := fun a => { State.reset with
      phase := .clearing a, arbiter := ⟨some ⟨.rotating .port, a, some 0x00, true⟩, .port⟩, mem := [(9, 0x01)] }
    (s 9).mem.wf = true ∧ (after .powerOnClearComplete (s 9)).mem = [] ∧
      (let t := s 65535
      t.pending = [] ∧ t.atReading = false ∧ t.composed = false ∧ t.head.mode.flight = none ∧ t.port.proof = none ∧
        (match step t with | .next u => u.isReady | _ => false) = true) := by decide
theorem witness_PowerOnClearTakes65536Periods : Memory.wf [(0, 0x01), (65535, 0x02)] = true := by decide
/-- PAPER against its copy; HOT asserted; HOT released outside and inside a hot hold. -/
theorem witness_InputChangesLatchInput :
    (armed.phase ≠ .held ∧ armed.irq.seenPaper = armed.paper ∧ false ≠ armed.paper ∧ armed.irq.seenHot = armed.hot ∧
      true ≠ armed.hot ∧ armed.head.mode = .armed) ∧
    (let s := { inLine (.hold .main 5) (row0 false 1 false) with hot := true, irq := { ready.irq with seenHot := true } }
    s.irq.seenHot = s.hot ∧ false ≠ s.hot ∧ s.head.mode = .inFlight (.hold .main 5) (row0 false 1 false) ∧
      (after (.hotChange false) s).readRegister 0x9 = 0x07) := by decide
theorem witness_LineStepIgnoredOrLatched :
    ready.head.mode = .idle ∧ State.reset.phase ≠ .ready ∧
      (let s := inLine (.strobe .main 3) (row0 false 1 true)
      s.phase = .ready ∧ s.head.mode = .inFlight (.strobe .main 3) (row0 false 1 true) ∧ (row0 false 1 true).ending = true) ∧
      (let s := inLine .fetch (row0 false 0 false)
      s.phase = .ready ∧ (row0 false 0 false).ending = false ∧ s.head.latch = false) := by decide
theorem witness_LineStepStartsALine :
    armed.phase = .ready ∧ armed.head.mode = .armed ∧ armed.jobs.front = some { jobOf 0x20 .closed with rendered := 8 } ∧
      armed.ring.bandHolding 0x20 0 = some 0 ∧ armed.ring.bandAt 0 = some ⟨.ready, 0x20, 0, 8⟩ := by decide

/-- The job of `armed` printed up to a trailing row. -/
def trailing (done : Nat) : State :=
  { small with
    jobs := ⟨some { jobOf 0x20 .closed with rendered := 24, done := done }, none⟩
    head := { small.head with mode := .armed } }

theorem witness_LineStepConsumesATrailingRow :
    (trailing 24).phase = .ready ∧ (trailing 24).head.mode = .armed ∧
      (trailing 24).jobs.front.map (fun j => (j.isAborting, decide (j.length ≤ j.done))) = some (false, true) ∧
      24 + 1 < 24 + 2 ∧ 25 + 1 = 24 + 2 ∧ (after .lineStep (trailing 25)).jobs.isEmpty = true := by decide
/-- Rows of the job still to come, the row under the policy ABORT, and the last row with room for one report. -/
theorem witness_LineStepInWaitLineIsAnUnderrun :
    under.phase = .ready ∧ under.head.mode = .waitLine ∧
      under.jobs.front.map (fun j => (j.policy, j.isAborting, decide (j.done + 1 < j.length + j.trailing))) =
        some (.blank, false, true) ∧
      (let s := { under with jobs := ⟨some ⟨0x20, 24, 0, .abort, .closed, 24, 16, 16, 0⟩, none⟩ }
      s.head.mode = .waitLine ∧ (∀ k ∈ s.jobs.back, k.tag ≠ 0x20) ∧
        (after .lineStep s).reports.records = [⟨.jobAborted, 0x20, 0xFF, 0x02, 16, 0⟩]) ∧
      (let s := { under with
        jobs := ⟨some ⟨0x20, 24, 0, .blank, .closed, 24, 16, 23, 7⟩, none⟩
        reports := ⟨List.replicate 15 (reportPrintStarted 0x20), 0⟩ }
      s.head.mode = .waitLine ∧ s.reports.records.length ≤ 16 ∧ 23 + 1 = 24 + 0 ∧
        (after .lineStep s).reports.records.getLast? = some ⟨.underrun, 0x20, 0xFF, 0x00, 23, 0⟩) := by decide
/-- The latch set in a fetch and in a pulse; the same with the job ABORTING already. -/
theorem witness_SecondStepLosesTheLine :
    let latched := fun s : State => { s with head := { s.head with latch := true } }
    let s := latched (inLine .fetch (row0 false 0 false))
    let p := latched (inLine (.strobe .main 3) (row0 false 1 false))
    s.phase = .ready ∧ s.jobs.front = some { jobOf 0x20 .closed with rendered := 8 } ∧ s.head.latch = true ∧
      LinePhase.fetch.isStrobe = false ∧ (after .lineStep s).jobs.isEmpty = true ∧
      (LinePhase.strobe .main 3).isStrobe = true ∧
      (after .lineStep p).jobs.front.map Job.state = some (.aborting .stepLost) ∧
      (let aborting := fun s : State => { s with jobs := ⟨some { jobOf 0x20 (.aborting .host) with rendered := 8 }, none⟩ }
      (after .lineStep (aborting p)).jobs = (aborting p).jobs ∧
        (after .lineStep (aborting s)).reports.records = [⟨.jobAborted, 0x20, 0xFF, 0x01, 0, 0⟩]) := by decide
/-- A line of zeros, a line with new dots, and a line whose dots are all in the history. -/
theorem witness_FetchEndChoosesThePass :
    (fetching []).quiet ∧ (after .lineFetchEnd (fetching [])).readRegister 0x9 = 0x02 ∧
      (after .lineFetchEnd (fetching [(0, 0x80)])).readRegister 0x9 = 0x04 ∧
      (let s := fetching [(0, 0x80)]
      (after .lineFetchEnd { s with head := { s.head with history := 0xFF :: List.replicate 7 0x00 } }).readRegister 0x9 =
        0x06) := by decide
/-- The fetch's own access in progress, and the internal step at its last one. -/
theorem witness_FetchEndChoosesThePass_step :
    let s := { inLine .fetch { row0 false 0 false with bytes := List.replicate 7 0x00 } with
      renderer := .idle, arbiter := ⟨some ⟨.fetch, 7, none, true⟩, .port⟩, mem := [(7, 0x01)] }
    s.pending = [] ∧ s.phase = .ready ∧ s.atReading = false ∧ s.composed = false ∧
      (∀ c ∈ s.port.proof, c.copied.length < s.headCfg.dots / 8) ∧
      (after .lineFetchEnd s).readRegister 0x9 = 0x04 ∧
      (match step s with | .next t => t.readRegister 0x9 | _ => 0x00) = 0x04 := by decide
/-- The first group has dots, with HOT and without, and with the report queue full; the last group alone has dots; no group
has. -/
theorem witness_ShiftEndBeginsThePass :
    let s := inLine (.shift .main 1) (row0 false 0 false)
    let empty := { row0 false 0 false with bytes := List.replicate 8 0x00, newDots := List.replicate 8 0x00 }
    s.head.mode = .inFlight (.shift .main 1) (row0 false 0 false) ∧ s.head.started = false ∧
      (after .shiftEnd s).pulse = some (.main, 1) ∧
      (after .shiftEnd { s with hot := true }).readRegister 0x9 = 0x08 ∧
      (after .shiftEnd { s with head := { s.head with started := true } }).reports.records = [] ∧
      (after .shiftEnd { s with reports := ⟨List.replicate 16 (reportPrintStarted 0x10), 0⟩ }).readRegister 0xF = 0x10 ∧
      (after .shiftEnd (inLine (.shift .main 1) { row0 true 0 false with bytes := [0, 0, 0, 0, 0, 0, 0, 1] })).pulse =
        some (.main, 2) ∧
      (after .shiftEnd (inLine (.shift .pre 1) empty)).readRegister 0x9 = 0x06 ∧
      (after .shiftEnd (inLine (.shift .main 1) empty)).jobs.front.map Job.done = some 1 := by decide
/-- An ending line; a next group with dots; the last group of each pass. -/
theorem witness_PulseEndTakesUpTheNextGroup :
    (let s := inLine (.strobe .main 1) (row0 false 1 true)
    let s := { s with jobs := ⟨some { jobOf 0x20 (.aborting .stepLost) with rendered := 8 }, none⟩ }
    s.head.latch = false ∧ (after .strobePulseEnd s).reports.records = [⟨.jobAborted, 0x20, 0xFF, 0x03, 0, 0⟩]) ∧
      (after .strobePulseEnd (inLine (.strobe .main 1) (row0 true 1 false))).pulse = some (.main, 2) ∧
      (after .strobePulseEnd (inLine (.strobe .pre 1) (row0 true 2 false))).readRegister 0x9 = 0x06 ∧
      (after .strobePulseEnd (inLine (.strobe .main 1) (row0 false 1 false))).jobs.front.map Job.done = some 1 := by decide
/-- A row that is not its band's last, and the last row of the band. -/
theorem witness_LineEndAdvancesTheJob :
    (let s := inLine (.strobe .main 1) (row0 false 1 false)
    s.jobs.front = some { jobOf 0x20 .closed with rendered := 8 } ∧ s.head.latch = false ∧
      s.ring.bandAt 0 = some ⟨.printing, 0x20, 0, 8⟩ ∧ (0 : Nat) + 1 ≠ 0 + 8) ∧
    (let s := inLine (.strobe .main 1) { row0 false 1 false with row := 7 }
    let s := { s with jobs := ⟨some { jobOf 0x20 .closed with rendered := 8, done := 7 }, none⟩ }
    (endLine { row0 false 1 false with row := 7 } s).ring.bandAt 0 = none) := by decide
/-- The line that ends the job, the line of an ABORTING job, and the latch set at a line's end: ignored, taken in ARMED, and an
underrun. -/
theorem witness_LineEndAdvancesTheJob_ends :
    (let s := inLine (.strobe .main 1) (row0 false 1 false)
    let last := { s with jobs := ⟨some { jobOf 0x20 .closed with length := 1, trailing := 0, rendered := 1 }, none⟩ }
    let stopped := { s with jobs := ⟨some { jobOf 0x20 (.aborting .host) with rendered := 8 }, none⟩ }
    (endLine (row0 false 1 false) last).reports.records = [⟨.jobDone, 0x20, 0xFF, 0x00, 1, 0⟩] ∧
      (endLine (row0 false 1 false) stopped).reports.records = [⟨.jobAborted, 0x20, 0xFF, 0x01, 1, 0⟩]) ∧
    (let served := fun (tag : Byte) (j : Job) =>
      let s := inLine (.strobe .main 1) (row0 false 1 false)
      let s := { s with jobs := ⟨some j, none⟩, head := { s.head with latch := true } }
      (s.phase, s.head.lineInFlight, (after .strobePulseEnd { s with head := { s.head with latch := false } }).head.mode.code,
        (after .strobePulseEnd s).head.mode.code, (after .strobePulseEnd s).reports.records.any fun r => decide (r.tag = tag))
    served 0x20 { jobOf 0x20 (.aborting .host) with rendered := 8 } = (.ready, true, 0x00, 0x00, true) ∧
      served 0x20 { jobOf 0x20 .closed with rendered := 8 } = (.ready, true, 0x02, 0x03, false) ∧
      served 0x20 { jobOf 0x20 .closed with done := 7 } = (.ready, true, 0x01, 0x01, true)) := by decide
theorem witness_HoldExpiryAbandonsTheLine :
    let s := inLine (.hold .main 1) (row0 false 1 false)
    s.head.mode = .inFlight (.hold .main 1) (row0 false 1 false) ∧
      s.jobs.front = some { jobOf 0x20 .closed with rendered := 8 } ∧ s.head.latch = false ∧
      (after .hotHoldExpire s).reports.records = [⟨.jobAborted, 0x20, 0xFF, 0x04, 0, 0⟩] := by decide
/-- No rows to render; a band end above the commit row and at it; a band not FREE; a PROOF hold; a claim. -/
theorem witness_LookChoosesWaitsOrClaims :
    small.renderer.work = none ∧ small.jobs.toRender = none ∧ (opened 7).renderer.work = none ∧
      (opened 7).jobs.toRender = some { jobOf 0x20 .opened with commitRow := 7 } ∧
      look (opened 7) = opened 7 ∧ (look (opened 8)).ring.bandAt 0 = some ⟨.rendering, 0x20, 0, 8⟩ ∧
      (look { opened 8 with ring := ⟨0, 8, 2, [some ⟨.ready, 0x21, 0, 8⟩, none], 0⟩ }).renderer = .waitBand ⟨0x20, 0, 8⟩ ∧
      (look { opened 8 with port := { ready.port with proof := some ⟨0, 0, []⟩ } }).renderer = .waitBand ⟨0x20, 0, 8⟩ := by
  decide
/-- The back job to render behind a front job fully rendered; a line in flight, a row ready in a band, a trailing row, and a row not
ready. -/
theorem witness_LookChoosesWaitsOrClaims_settle :
    JobTable.toRender ⟨some { jobOf 0x20 .closed with rendered := 24 }, some (jobOf 0x21 .opened)⟩ =
        some (jobOf 0x21 .opened) ∧
      (fetching []).head.mode.flight.isSome = true ∧ armed.head.mode.flight = none ∧ armed.settledMode = .armed ∧
      (trailing 24).settledMode = .armed ∧ (opened 8).settledMode = .waitLine ∧
      (24 : Nat) ≤ 24 ∧ armed.ring.bandAt 0 = some ⟨.ready, 0x20, 0, 8⟩ := by decide
/-- A band whose rows the head has not consumed, and one it has. -/
theorem witness_BandCompletionIsOneEvent :
    armed.renderer = .rendering ⟨1, 0x20, 8, 8, [], [], .finished⟩ ∧ armed.quiet ∧
      armed.jobs.find 0x20 = some { jobOf 0x20 .closed with rendered := 8 } ∧
      (after .bandComplete armed).ring.bandAt 1 = some ⟨.ready, 0x20, 8, 8⟩ ∧
      (let s := { armed with
        jobs := ⟨some { jobOf 0x20 .closed with rendered := 8, done := 16 }, none⟩
        ring := ⟨0, 8, 2, [none, some ⟨.rendering, 0x20, 8, 8⟩], 0⟩
        placements := [{ bar 0 0x20 true with top := 12, lastRow := 15 }] }
      (after .bandComplete s).ring.bandAt 1 = none ∧ (after .bandComplete s).placements = [] ∧
        (after .bandComplete s).reports.records = [⟨.retired, 0x20, 0x00, 0x00, 0, 0⟩]) := by decide
/-- A band at its last clearing write: completed early by the row, with no access in progress and with that one; and the internal
step that performs it. -/
theorem witness_BandCompletionIsOneEvent_step :
    let w : Work := ⟨1, 0x20, 8, 8, [], [], .clearing 1⟩
    let s := { armed with renderer := .rendering w }
    let own := { s with arbiter := ⟨some ⟨.rotating .renderer, 127, some 0x00, true⟩, .renderer⟩ }
    s.composeInside w = true ∧ s.quiet ∧ rendererRequest own = some ⟨127, some 0x00⟩ ∧ timers own = own ∧
      own.pending = [] ∧ own.phase = .ready ∧ own.atReading = false ∧
      (w.advance own (Memory.read own.mem 127)).cursor = .finished ∧ own.port.proof = none ∧
      (∀ x ∈ own.head.mode.flight, x.1 ≠ .fetch) ∧
      (after .bandComplete s).ring.bandAt 1 = some ⟨.ready, 0x20, 8, 8⟩ ∧
      (match step own with | .next t => t.ring.bandAt 1 | _ => none) = some ⟨.ready, 0x20, 8, 8⟩ := by decide
theorem witness_BandCompletionIsOneEvent_inRange :
    (⟨1, 0x20, 8, 8, [], [], .clearing 1⟩ : Work).inRange armed := ⟨by decide, (by decide : 1 ≤ 1 ∧ 1 ≤ 8 * 8)⟩
/-- R128: with no access left to the band or to the copy, their ends leave the rotation where it stands. -/
theorem test_end_without_access_leaves_the_rotation :
    let s := { armed with arbiter := ⟨none, .upload⟩ }
    (after .bandComplete s).arbiter.rotation = .upload ∧
      (after .proofCopyComplete { s with port := { s.port with
        busy := true, proof := some ⟨0, 56, List.replicate 8 0x00⟩ } }).arbiter.rotation = .upload := by decide

/-- An OPEN job with a bar and an image to compose. -/
def drawing : State :=
  { opened 8 with
    placements := [bar 0 0x20 false, { bar 1 0x20 false with kind := .image 0x4000 1 }]
    mem := [(0x4000, 0xAA)] }

theorem witness_ComposedBandHoldsTheLabel :
    drawing.mem.wf = true ∧ (drawing.placements.Pairwise fun p q => p.handle ≠ q.handle) ∧
      (claimBand ⟨0x20, 0, 8⟩ drawing).renderer.work.isSome = true ∧ drawing.headCfg.dots % 8 = 0 ∧
      drawing.ring.base + drawing.ring.claim * (drawing.headCfg.dots / 8) * drawing.ring.h + 8 * 8 ≤ 65536 := by decide
theorem witness_ComposedBandHoldsTheLabel_sources :
    ∀ p ∈ drawing.placements, p.job = 0x20 → sourcesOutside drawing 0 64 p := by
  intro p hp _
  simp only [drawing, List.mem_cons, List.not_mem_nil, or_false] at hp
  rcases hp with rfl | rfl
  · trivial
  · exact .inr (by decide)
/-- The renderer at a clearing write, at a read of a band byte, at its write back, and at a reading. -/
theorem witness_RendererProgressKeepsTheOutcome :
    let at' := fun c : Cursor => (⟨0, 0x20, 0, 8, [0], [⟨0, 0⟩], c⟩ : Work)
    let s := fun c : Cursor => { drawing with renderer := .rendering (at' c) }
    rendererRequest (s (.clearing 1)) = some ⟨63, some 0x00⟩ ∧ (at' (.clearing 1)).lineBytes drawing = 64 ∧
      rendererRequest (s (.drawing [] 2 [] 0 none)) = some ⟨16, none⟩ ∧
      rendererRequest (s (.drawing [] 2 [] 1 (some 0x00))) = some ⟨17, some 0xE0⟩ ∧
      (s (.reading [])).atReading = true := by decide
/-- The work stands in range while it clears, while it draws, and at a reading of a run; and a claim whose placements are not
empty. -/
theorem witness_RendererProgressKeepsTheOutcome_inRange :
    let at' := fun c : Cursor => (⟨0, 0x20, 0, 8, [0], [⟨0, 0⟩], c⟩ : Work)
    let run := { bar 0 0x20 false with kind := .glyphs 0 [0x7F] }
    (at' (.clearing 1)).inRange drawing ∧ (at' (.drawing [] 2 [] 1 (some 0x00))).inRange drawing ∧
      (at' (.reading [])).inRange { drawing with placements := [run] } ∧
      1 ≤ 8 * (drawing.headCfg.dots / 8) ∧
      ∀ p ∈ drawing.placements, 1 ≤ p.width ∧ 1 ≤ p.height ∧ p.hasCodes = true :=
  ⟨⟨by decide, (by decide : 1 ≤ 1 ∧ 1 ≤ 8 * (drawing.headCfg.dots / 8))⟩,
    ⟨by decide, (⟨0, 0⟩, bar 0 0x20 false), by decide, by decide, by decide, by decide, by decide⟩,
    ⟨by decide, (⟨0, 0⟩, { bar 0 0x20 false with kind := .glyphs 0 [0x7F] }), by decide, by decide⟩,
    by decide, by decide⟩

/-! ### Witnesses of the laws -/

theorem witness_EveryStepKeepsTheMemoryForm : armed.mem.wf = true ∧ goesOn .lineStep armed = true := by decide
theorem witness_EveryStepKeepsTheReportQueueLaw : armed.reports.lawful ∧ goesOn .lineStep armed = true := by decide
theorem witness_EveryStepKeepsThePortAndConfigurationLaws :
    armed.portLawful ∧ armed.configLawful ∧ goesOn .lineStep armed = true := by decide
theorem witness_EveryStepKeepsTheUploadLaw :
    (uploading .dirIn 4 [0x05]).uploadLawful ∧ (uploading .dirIn 4 [0x05]).zoneGuarded ∧
      goesOn .uploadStore (uploading .dirIn 4 [0x05]) = true := by decide
theorem witness_EveryStepKeepsTheJobLaw : armed.jobsLawful ∧ goesOn .lineStep armed = true := by decide

/-- A state with a READY band, a band RENDERING and the head ARMED is lawful. -/
theorem witness_EveryStepKeepsTheLabelLaw : armed.labelLawful where
  config := by decide
  port := by decide
  glyphs := by decide
  jobs := by decide
  placements := by decide
  ring := by
    have h0 : armed.bandLawful 0 ⟨.ready, 0x20, 0, 8⟩ := by decide
    have h1 : armed.bandLawful 1 ⟨.rendering, 0x20, 8, 8⟩ := by decide
    refine ⟨?_, by decide, by decide⟩
    intro i hi b hb
    match i, hi with
    | 0, _ => exact (Option.some.inj hb) ▸ h0
    | 1, _ => exact (Option.some.inj hb) ▸ h1
  run := by
    have h : armed.olderThan ⟨.ready, 0x20, 0, 8⟩ 0 := by decide
    refine ⟨?_, by decide⟩
    intro d hd e he b hb
    match d, hd, e, he with
    | 1, _, 0, _ => exact (Option.some.inj hb) ▸ h
  head := by decide
  history := by decide
  looked := by decide
  composed := fun w hw => (Option.some.inj hw) ▸ ⟨⟨by decide, trivial⟩, rfl, by decide⟩
  proof := by decide
/-- The same state with an access in progress at the top of memory. -/
theorem witness_EveryStepKeepsTheMemoryForm_lawful :
    armed.labelLawful ∧ armed.uploadLawful ∧ armed.accessLawful ∧
      ({ armed with arbiter := ⟨some ⟨.rotating .port, 65535, none, false⟩, .port⟩ } : State).accessLawful :=
  ⟨witness_EveryStepKeepsTheLabelLaw, by decide, by decide, by decide⟩
/-- A row that moves the done row on. -/
theorem witness_EveryStepKeepsTheJobLaw_rows :
    (armed.jobs.find 0x20).map Job.done = some 0 ∧ (after .lineStep (trailing 24)).jobs.find 0x20 =
      some { jobOf 0x20 .closed with rendered := 24, done := 25 } := by decide
theorem witness_OneRenderingAndOnePrintingBand :
    armed.labelLawful ∧ armed.ring.bandAt 1 = some ⟨.rendering, 0x20, 8, 8⟩ :=
  ⟨witness_EveryStepKeepsTheLabelLaw, by decide⟩
/-- A step that begins a pulse. -/
theorem witness_NoPulseBeginsWhileHot :
    let s := { inLine (.shift .main 1) (row0 false 0 false) with pending := [.shiftEnd] }
    (match step s with
    | .next t => decide (t.pulse ≠ none ∧ t.pulse ≠ s.pulse ∧ t.hot = false)
    | _ => false) = true := by decide
/-- A pulse with two periods left and with one, an upload's store in progress beside it; a reading beside a pulse; the counts of a
pulse at its most. -/
theorem witness_NoPulseBeginsWhileHot_periods :
    (let s := fun n => { inLine (.strobe .main n) (row0 true 1 false) with
      renderer := .idle, arbiter := ⟨some ⟨.rotating .upload, 65535, some 0x01, false⟩, .port⟩ }
    (s 2).pending = [] ∧ (s 2).phase = .ready ∧ (s 2).atReading = false ∧ (LinePhase.strobe .main 2).periods = some 2 ∧
      (∀ a ∈ (s 2).arbiter.inProgress, a.addr < 65536) ∧
      (match step (s 2) with | .next t => t.head.mode.flight.map Prod.fst | _ => none) = some (.strobe .main 1) ∧
      (match step (s 1) with | .next t => t.pulse | _ => none) = some (.main, 2)) ∧
    (let s := { inLine (.strobe .main 1) (row0 true 1 false) with renderer := .idle }
    let u := after .strobePulseEnd s
    u.quiet ∧ (∀ k ∈ [Client.fetch, .rotating .renderer, .rotating .upload, .rotating .port], requestOf u k = none) ∧
      u.composed = false ∧ u.port.proof = none ∧ u.pulse = some (.main, 2)) ∧
    (let s := { inLine (.strobe .main 5) (row0 true 1 false) with
      renderer := .rendering ⟨1, 0x20, 8, 8, [0], [⟨0, 0⟩], .reading []⟩ }
    s.atReading = true ∧ (LinePhase.strobe .main 128).most s.headCfg = 128) := by decide
/-- A lawful state in a pulse that has as many periods left as its pass gives. -/
theorem witness_NoPulseBeginsWhileHot_most :
    let s := inLine (.strobe .main 128) (row0 false 1 false)
    s.labelLawful ∧ ∀ x ∈ s.head.mode.flight, ∀ n ∈ x.1.periods, n ≤ x.1.most s.headCfg := by
  refine ⟨?_, by decide⟩
  exact {
    config := by decide
    port := by decide
    glyphs := by decide
    jobs := by decide
    placements := by decide
    ring := by
      have h0 : (inLine (.strobe .main 128) (row0 false 1 false)).bandLawful 0 ⟨.printing, 0x20, 0, 8⟩ := by decide
      have h1 : (inLine (.strobe .main 128) (row0 false 1 false)).bandLawful 1 ⟨.rendering, 0x20, 8, 8⟩ := by decide
      refine ⟨?_, by decide, by decide⟩
      intro i hi b hb
      match i, hi with
      | 0, _ => exact (Option.some.inj hb) ▸ h0
      | 1, _ => exact (Option.some.inj hb) ▸ h1
    run := by
      have h : (inLine (.strobe .main 128) (row0 false 1 false)).olderThan ⟨.printing, 0x20, 0, 8⟩ 0 := by decide
      refine ⟨?_, by decide⟩
      intro d hd e he b hb
      match d, hd, e, he with
      | 1, _, 0, _ => exact (Option.some.inj hb) ▸ h
    head := by decide
    history := by decide
    looked := by decide
    composed := fun w hw => (Option.some.inj hw) ▸ ⟨⟨by decide, trivial⟩, rfl, by decide⟩
    proof := by decide }
theorem witness_FetchEndsWithinWPlusOnePeriods :
    let s := { fetching [] with arbiter := ⟨some ⟨.rotating .port, 65535, none, true⟩, .port⟩ }
    s.phase = .ready ∧ s.pending = [] ∧ s.head.mode.flight.map (fun x => (x.1, x.2.bytes)) = some (.fetch, []) ∧
      s.head.latch = false ∧ s.atReading = false ∧ 1 ≤ s.headCfg.dots / 8 ∧
      (∀ a ∈ s.arbiter.inProgress, a.addr < 65536 ∧ (a.live = true → a.client ≠ .rotating .renderer)) := by decide
/-- The fetch waits; with no fetch the upload channel waits alone, behind no one and behind two others. -/
theorem witness_FetchEndsWithinWPlusOnePeriods_grants :
    (fetching []).quiet ∧ fetchRequest (fetching []) = some ⟨0, none⟩ ∧
      (let s := uploading .dirIn 4 [0x05]
      s.quiet ∧ fetchRequest s = none ∧ requestOf s (.rotating .upload) = some ⟨0x4000, some 0x05⟩ ∧
        requestOf s (.rotating .renderer) = none ∧ s.arbiter.rotation = .port ∧ Rotating.ahead .port .upload = 1 ∧ Rotating.ahead .upload .upload = 2) ∧
      (let s := { uploading .dirIn 4 [0x05] with renderer := .rendering ⟨0, 0x20, 0, 8, [], [], .clearing 8⟩ }
      (requestOf s (.rotating .upload)).isSome = true ∧
        (grant s).arbiter.inProgress.map Access.client = some (.rotating .renderer) ∧
        Rotating.ahead (grant s).arbiter.rotation .upload = 0) := by decide

end Sys2Proof.Tests
end

section
/-! The operations over the label do not look at the command in the port, nor at the state and the latch of the head
channel: they commute with a change of these. The job commands then follow from what their acts do to the state before
the take. -/

namespace Sys2Proof.Machine

/-! ### What the operations over the label do not look at -/

/-- What the operations over the label neither read nor change: the command in the port, and the state and the latch of
the head channel. -/
structure Surroundings where
  params : List Byte
  answer : List Byte
  answerPos : Nat
  busy : Bool
  cmd : Byte
  mode : HeadMode
  latch : Bool

/-- The state with other surroundings. -/
def State.within (s : State) (d : Surroundings) : State :=
  { s with
    port := { s.port with
      params := d.params, answer := d.answer, answerPos := d.answerPos, busy := d.busy, cmd := d.cmd }
    head := { s.head with mode := d.mode, latch := d.latch } }

section
variable (d : Surroundings) (s : State)

/-- The take of a code is a change of the surroundings. -/
theorem take_eq_within (code : Byte) :
    take code s = s.within ⟨[], [], 0, true, code, s.head.mode, s.head.latch⟩ := rfl

@[simp] theorem within_renderer : (s.within d).renderer = s.renderer := rfl
@[simp] theorem within_jobs : (s.within d).jobs = s.jobs := rfl
@[simp] theorem within_ring : (s.within d).ring = s.ring := rfl
@[simp] theorem within_placements : (s.within d).placements = s.placements := rfl
@[simp] theorem within_reports : (s.within d).reports = s.reports := rfl
@[simp] theorem within_claimable : (s.within d).claimable = s.claimable := rfl

theorem within_ite {c : Prop} [Decidable c] (t : State) :
    (if c then s else t).within d = if c then s.within d else t.within d := apply_ite (State.within · d) c s t

theorem look_within : look (s.within d) = (look s).within d := by
  simp only [look, within_renderer, within_jobs, within_ring, within_claimable]
  split
  · rfl
  · split
    · rfl
    · rename_i j _
      by_cases hc : commitAllows j (chooseBand s.ring.h j) = true
      · simp only [hc, if_true]
        rw [within_ite]
        rfl
      · simp only [hc]
        rfl

theorem post_within (r : Report) : post r (s.within d) = (post r s).within d := by
  unfold post
  rw [within_ite]
  rfl

theorem frontLeaves_within : frontLeaves (s.within d) = (frontLeaves s).within d := by
  simp only [frontLeaves, within_jobs]
  split <;> rfl

theorem abandonWork_within (tag : Byte) : abandonWork tag (s.within d) = (abandonWork tag s).within d := by
  simp only [abandonWork, within_renderer]
  split
  · rw [within_ite]
    rfl
  · rfl

theorem freeJob_within (tag : Byte) (keep : Bool) : freeJob tag keep (s.within d) = (freeJob tag keep s).within d :=
  abandonWork_within d ((s.freeJobBands tag keep).freePlacements tag) tag

theorem completeFront_within (j : Job) : completeFront j (s.within d) = (completeFront j s).within d := by
  simp only [completeFront, post_within, freeJob_within, frontLeaves_within, look_within]

theorem completeIfDone_within : completeIfDone (s.within d) = (completeIfDone s).within d := by
  simp only [completeIfDone, within_jobs]
  split
  · rw [completeFront_within]
    exact (apply_ite (State.within · d) _ _ _).symm
  · rfl

theorem abortFrontAtOnce_within (j : Job) (cause : AbortCause) :
    abortFrontAtOnce j cause (s.within d) = (abortFrontAtOnce j cause s).within d := by
  simp only [abortFrontAtOnce, post_within, freeJob_within, frontLeaves_within, look_within]

theorem updateFront_within (f : Job → Job) : (s.within d).updateFront f = (s.updateFront f).within d := rfl

theorem abortInFlight_within (cause : AbortCause) :
    abortInFlight cause (s.within d) = (abortInFlight cause s).within d := by
  simp only [abortInFlight, within_jobs, updateFront_within, freeJob_within, look_within]
  split
  · rw [within_ite]
  · rfl

theorem freeJobBands_within (tag : Byte) (keep : Bool) :
    (s.within d).freeJobBands tag keep = (s.freeJobBands tag keep).within d := rfl

theorem endAbort_within : endAbort (s.within d) = (endAbort s).within d := by
  simp only [endAbort, within_jobs]
  split
  · split
    · simp only [freeJobBands_within, post_within, frontLeaves_within, look_within]
    · rfl
  · rfl

theorem abortBack_within (j : Job) : abortBack j (s.within d) = (abortBack j s).within d := by
  have h := look_within d { post (reportJobAborted j .host) (freeJob j.tag false s) with
    jobs := { (post (reportJobAborted j .host) (freeJob j.tag false s)).jobs with back := none } }
  simp only [abortBack, freeJob_within, post_within]
  exact h

/-- A settle looks at the head channel's state, which the take of a code leaves. -/
theorem settle_take (code : Byte) : settle (take code s) = take code (settle s) := by
  unfold settle
  rw [apply_ite (take code)]
  rfl

/-- An operation that does not look at the surroundings, and leaves the state and the latch of the head channel, commutes
with the take of a code. -/
theorem take_comm {f : State → State} (hf : ∀ d s, f (State.within s d) = (f s).within d)
    (hm : ∀ s, (f s).head.mode = s.head.mode) (hl : ∀ s, (f s).head.latch = s.head.latch) (code : Byte) :
    f (take code s) = take code (f s) := by
  rw [take_eq_within, hf, take_eq_within, hm, hl]

theorem look_take (code : Byte) : look (take code s) = take code (look s) :=
  take_comm s look_within (by simp) (by simp) code

end

/-! ### The acts of the job commands, carried out on the state before the take -/

/-- A command that admits and accepts answers OK on what its act does to the state before the take. -/
theorem openJobAct_take (p : OpenParams) (code : Byte) (s : State) :
    openJobAct p (take code s) = take code (openJobAct p s) := by
  simp only [openJobAct, take_jobs]
  split
  · rw [← look_take, ← settle_take]
    rfl
  · exact look_take ({ s with jobs := { s.jobs with back := some p.job } } : State) code

theorem commitAct_take (j : Job) (row : Nat) (code : Byte) (s : State) :
    commitAct j row (take code s) = take code (commitAct j row s) := by
  simp only [commitAct, take_jobs]
  rw [apply_ite (take code), ← look_take]
  rfl

theorem closeJobAct_take (j : Job) (code : Byte) (s : State) :
    closeJobAct j (take code s) = take code (closeJobAct j s) := by
  unfold closeJobAct
  rw [← look_take]
  rfl

@[simp] theorem abortInFlight_mode (cause : AbortCause) (s : State) :
    (abortInFlight cause s).head = s.head := by
  unfold abortInFlight
  split
  · split
    · rfl
    · simp
  · rfl

theorem abortJobAct_take (j : Job) (code : Byte) (s : State) :
    abortJobAct j (take code s) = take code (abortJobAct j s) := by
  simp only [abortJobAct, take_jobs, take_head]
  rw [take_comm s (fun d s => abortInFlight_within d s .host) (by simp) (by simp),
    take_comm s (fun d s => abortFrontAtOnce_within d s j .host) (by simp [abortFrontAtOnce]) (by simp [abortFrontAtOnce]),
    take_comm s (fun d s => abortBack_within d s j) (by simp [abortBack]) (by simp [abortBack]), settle_take]
  rw [apply_ite (take code), apply_ite (take code)]
  rfl

/-! ### The job of a tag (R2) -/

/-- The job of a tag is the front job with that tag, or the back job with it behind a front job of another tag. -/
theorem find_eq_some {t : JobTable} {tag : Byte} {k : Job} :
    t.find tag = some k ↔
      (t.front = some k ∧ k.tag = tag) ∨ ((∀ j ∈ t.front, j.tag ≠ tag) ∧ t.back = some k ∧ k.tag = tag) := by
  obtain ⟨front, back⟩ := t
  cases front with
  | none => simp [JobTable.find, Option.filter_eq_some_iff]
  | some j =>
    by_cases h : j.tag = tag
    · simp only [JobTable.find, h, if_true, Option.some.injEq, Option.mem_def, forall_eq']
      constructor
      · rintro rfl
        exact .inl ⟨rfl, h⟩
      · rintro (⟨rfl, -⟩ | ⟨hn, -⟩)
        · rfl
        · exact absurd rfl hn
    · simp only [JobTable.find, h, if_false, Option.filter_eq_some_iff, decide_eq_true_eq, Option.some.injEq,
        Option.mem_def, forall_eq']
      constructor
      · exact fun hk => .inr ⟨h, hk⟩
      · rintro (⟨rfl, hk⟩ | ⟨-, hk⟩)
        · exact absurd hk h
        · exact hk

/-- The job of a tag has that tag. -/
theorem find_tag {t : JobTable} {tag : Byte} {k : Job} (h : t.find tag = some k) : k.tag = tag := by
  rcases find_eq_some.mp h with ⟨-, h⟩ | ⟨-, -, h⟩ <;> exact h

/-- No job has a tag exactly when neither position holds a job of it. -/
theorem find_eq_none {t : JobTable} {tag : Byte} :
    t.find tag = none ↔ (∀ j ∈ t.front, j.tag ≠ tag) ∧ ∀ k ∈ t.back, k.tag ≠ tag := by
  obtain ⟨front, back⟩ := t
  cases front with
  | none => simp [JobTable.find, Option.filter_eq_none_iff]
  | some j =>
    by_cases h : j.tag = tag <;> simp [JobTable.find, h, Option.filter_eq_none_iff]

/-- The front job is the job of its tag. -/
theorem find_front {t : JobTable} {j : Job} (h : t.front = some j) : t.find j.tag = some j :=
  find_eq_some.mpr (.inl ⟨h, rfl⟩)

/-- The back job is the job of its tag when the front job has another. -/
theorem find_back {t : JobTable} {k : Job} (h : t.back = some k) (hf : ∀ j ∈ t.front, j.tag ≠ k.tag) :
    t.find k.tag = some k :=
  find_eq_some.mpr (.inr ⟨hf, h, rfl⟩)

theorem isFront_iff {t : JobTable} {tag : Byte} : t.isFront tag = true ↔ ∃ j ∈ t.front, j.tag = tag := by
  unfold JobTable.isFront
  cases t.front <;> simp

/-! ### The checks of the job commands -/

/-- A code the port takes is carried out on the take, with the parameters that were buffered. -/
theorem exec_openJob {s : State} (h : s.admits) :
    exec .openJob s = .next (completeWith (openJobBody s.port.params (take Config.codeOpenJob s))) :=
  congrArg _ (offer_taken h _ _)
theorem exec_commit {s : State} (h : s.admits) :
    exec .commit s = .next (completeWith (commitBody s.port.params (take Config.codeCommit s))) :=
  congrArg _ (offer_taken h _ _)
theorem exec_closeJob {s : State} (h : s.admits) :
    exec .closeJob s = .next (completeWith (closeJobBody s.port.params (take Config.codeCloseJob s))) :=
  congrArg _ (offer_taken h _ _)
theorem exec_abortJob {s : State} (h : s.admits) :
    exec .abortJob s = .next (completeWith (abortJobBody s.port.params (take Config.codeAbortJob s))) :=
  congrArg _ (offer_taken h _ _)
theorem exec_queryJob {s : State} (h : s.admits) :
    exec .queryJob s = .next (completeWith (queryJobBody s.port.params (take Config.codeQueryJob s))) :=
  congrArg _ (offer_taken h _ _)

/-- A list of one element has one element. -/
theorem parseByte_length {ps : List Byte} (h : ps.length ≠ 1) : parseByte ps = .error .badLength := by
  match ps, h with
  | [], _ => rfl
  | _ :: _ :: _, _ => rfl

/-- Settles O26: QUERY_JOB. -/
theorem queryJobAnswersTheRecord : Obligations.QueryJobAnswersTheRecord := by
  intro s h
  rw [exec_queryJob h]
  refine ⟨fun hl => ?_, fun tag hp => ⟨fun hn => ?_, fun j hj => ?_⟩⟩
  · simp only [queryJobBody, queryJobCheck, parseByte_length hl]
    rfl
  · simp only [queryJobBody, queryJobCheck, hp, parseByte, take_jobs, hn]
    rfl
  · have hpos : (if s.jobs.isFront tag then (0x00 : Byte) else 0x01) = if ∃ k ∈ s.jobs.front, k.tag = tag then 0x00 else 0x01 :=
      if_congr isFront_iff rfl rfl
    simp only [queryJobBody, queryJobCheck, hp, parseByte, take_jobs, hj, find_tag hj, checked_ok, Job.answer,
      completeWith_accept]
    rw [hpos]
    cases j.state with
    | aborting cause => cases cause <;> cases j.policy <;> rfl
    | _ => cases j.policy <;> rfl

/-- Settles O23: CLOSE_JOB. -/
theorem closeJobCommitsTheLength : Obligations.CloseJobCommitsTheLength := by
  intro s h
  rw [exec_closeJob h]
  refine ⟨fun hn => ?_, fun j hj => ?_⟩
  · simp only [closeJobBody, closeJobCheck, take_jobs, hn]
    rfl
  · simp only [closeJobBody, closeJobCheck, take_jobs, hj]
    cases hp : s.port.params with
    | nil =>
      simp only [parseNone, checked_ok, closeJobAct_take]
      rfl
    | cons p ps => rfl

/-- Settles O22: COMMIT. -/
theorem commitRaisesTheCommitRow : Obligations.CommitRaisesTheCommitRow := by
  intro s h
  rw [exec_commit h]
  refine ⟨fun hn => ?_, fun j hj => ?_⟩
  · simp only [commitBody, commitCheck, take_jobs, hn]
    rfl
  · simp only [commitBody, commitCheck, take_jobs, hj]
    match hp : s.port.params with
    | [] | [_] | _ :: _ :: _ :: _ => rfl
    | [r0, r1] =>
      have hrow : min (paramWord [r0, r1] 0) j.length = min (le16 r0 r1) j.length := rfl
      simp only [hrow, parseRow]
      by_cases hlt : min (le16 r0 r1) j.length < j.commitRow
      · simp only [hlt, if_true]
        rfl
      · by_cases heq : min (le16 r0 r1) j.length = j.commitRow
        · simp only [heq, Nat.lt_irrefl, if_true, if_false, checked_ok, commitAct]
          rfl
        · have hgt : j.commitRow < min (le16 r0 r1) j.length := by omega
          simp only [hlt, heq, if_false, checked_ok, commitAct_take]
          simp only [commitAct, hgt, if_true]
          rfl


/-! ### OPEN_JOB -/

/-- Check 1 of OPEN_JOB (R6): the table is empty or holds one CLOSED job. -/
theorem admitsOpen_iff (t : JobTable) :
    t.admitsOpen = true ↔ ¬ (t.back.isSome ∨ ∃ k ∈ t.front, k.state ≠ .closed) := by
  obtain ⟨front, back⟩ := t
  cases front <;> cases back <;> simp [JobTable.admitsOpen]

/-- Check 5 of OPEN_JOB (R6): the segment of a slot overlaps the band zone. -/
theorem slotOverZone_iff (s : State) (slot : Option Segment) :
    s.slotOverZone slot = true ↔ ∃ g ∈ slot, s.segmentOverZone g := by
  cases slot with
  | none => simp [State.slotOverZone]
  | some g =>
    simp only [Option.mem_def, Option.some.injEq, exists_eq_left']
    exact decide_eq_true_iff

/-- Check 2 of OPEN_JOB (R6). -/
theorem parseOpen_length {ps : List Byte} (h : ps.length ≠ 6) : parseOpen ps = .error .badLength := by
  match ps, h with
  | [], _ | [_], _ | [_, _], _ | [_, _, _], _ | [_, _, _, _], _ | [_, _, _, _, _], _ => rfl
  | _ :: _ :: _ :: _ :: _ :: _ :: _ :: _, _ => rfl

/-- Check 3 of OPEN_JOB, and the four values of the record (R6). -/
theorem parseOpen_six (tag l0 l1 t0 t1 p : Byte) :
    parseOpen [tag, l0, l1, t0, t1, p] =
      if le16 l0 l1 = 0 ∨ 4095 < le16 t0 t1 ∨ 1 < p.toNat then .error .badParam
      else .ok ⟨tag, le16 l0 l1, le16 t0 t1, if p.toNat = 0 then .blank else .abort⟩ := by
  have h0 : p = 0x00 ↔ p.toNat = 0 := by rw [← BitVec.toNat_inj]; rfl
  have h1 : p = 0x01 ↔ p.toNat = 1 := by rw [← BitVec.toNat_inj]; rfl
  simp only [parseOpen, policyOf, h0, h1]
  grind

/-- A job's tag is in use beside a free back position when the front job has it (R6). -/
theorem find_isSome_of_back_none {t : JobTable} (h : t.back = none) (tag : Byte) :
    (t.find tag).isSome = true ↔ ∃ k ∈ t.front, k.tag = tag := by
  rw [Option.isSome_iff_ne_none, ne_eq, find_eq_none]
  simp [h]

/-- The record that OPEN_JOB makes of its parameters (R7). -/
abbrev openRecord (ps : List Byte) : OpenParams :=
  ⟨ps.getD 0 0x00, paramWord ps 1, paramWord ps 3, if paramByte ps 5 = 0 then .blank else .abort⟩

/-- The checks of OPEN_JOB in order, in the terms of the claims (R6). -/
theorem openJobCheck_eq (ps : List Byte) (s : State) :
    openJobCheck ps s =
      if s.jobs.back.isSome ∨ ∃ k ∈ s.jobs.front, k.state ≠ .closed then .error .badState
      else if ps.length ≠ 6 then .error .badLength
      else if paramWord ps 1 = 0 ∨ 4095 < paramWord ps 3 ∨ 1 < paramByte ps 5 then .error .badParam
      else if ∃ k ∈ s.jobs.front, k.tag = ps.getD 0 0x00 then .error .dupTag
      else if (∃ g ∈ s.upload.cur, s.segmentOverZone g) ∨ ∃ g ∈ s.upload.nxt, s.segmentOverZone g then .error .zone
      else .ok (openRecord ps) := by
  unfold openJobCheck
  by_cases h1 : s.jobs.back.isSome ∨ ∃ k ∈ s.jobs.front, k.state ≠ .closed
  · rw [if_pos h1, if_neg (fun ha => (admitsOpen_iff _).mp ha h1)]
  rw [if_neg h1, if_pos ((admitsOpen_iff _).mpr h1)]
  by_cases h2 : ps.length = 6
  swap
  · rw [if_pos h2, parseOpen_length h2]
  rw [if_neg (not_not.mpr h2)]
  match ps, h2 with
  | [tag, l0, l1, t0, t1, p], _ =>
    rw [parseOpen_six]
    have hb : s.jobs.back = none := by simpa using fun hb => h1 (.inl hb)
    have hz : (s.slotOverZone s.upload.cur || s.slotOverZone s.upload.nxt) = true ↔
        (∃ g ∈ s.upload.cur, s.segmentOverZone g) ∨ ∃ g ∈ s.upload.nxt, s.segmentOverZone g := by
      rw [Bool.or_eq_true, slotOverZone_iff, slotOverZone_iff]
    by_cases h3 : le16 l0 l1 = 0 ∨ 4095 < le16 t0 t1 ∨ 1 < p.toNat
    · rw [if_pos h3]
      exact (if_pos h3).symm
    · rw [if_neg h3]
      refine Eq.trans ?_ (if_neg h3).symm
      exact if_congr (find_isSome_of_back_none hb tag) rfl (if_congr hz rfl rfl)

/-- Settles O21: the checks in order by `openJobCheck_eq`, then the act on the state before the take. -/
theorem openJobChecksThenOpens : Obligations.OpenJobChecksThenOpens := by
  intro s h
  have hcheck : openJobCheck s.port.params (take Config.codeOpenJob s) = openJobCheck s.port.params s := rfl
  rw [exec_openJob h]
  dsimp only
  congr 1
  simp only [openJobBody, hcheck, openJobCheck_eq]
  split
  · rfl
  rename_i h1
  split
  · rfl
  split
  · rfl
  split
  · rfl
  split
  · rfl
  simp only [checked_ok, openJobAct_take, completeWith_accept]
  cases hf : s.jobs.front with
  | none =>
    have hb : s.jobs.back = none := by simpa using fun hb => h1 (.inl hb)
    simp only [openJobAct, hf, hb, if_true]
    rfl
  | some k =>
    simp only [openJobAct, hf]
    rfl

end Sys2Proof.Machine
end

section
/-! What an abort or a completion frees, and what a look can then claim; ABORT_JOB (R16 to R21). -/

namespace Sys2Proof.Machine

/-! ### The job table replaced -/

/-- The state with another job table. -/
def State.withJobs (s : State) (t : JobTable) : State := { s with jobs := t }

section
variable (s : State) (t : JobTable)

@[simp] theorem State.withJobs_jobs : (s.withJobs t).jobs = t := rfl
@[simp] theorem State.withJobs_phase : (s.withJobs t).phase = s.phase := rfl
@[simp] theorem State.withJobs_hot : (s.withJobs t).hot = s.hot := rfl
@[simp] theorem State.withJobs_paper : (s.withJobs t).paper = s.paper := rfl
@[simp] theorem State.withJobs_dataOut : (s.withJobs t).dataOut = s.dataOut := rfl
@[simp] theorem State.withJobs_port : (s.withJobs t).port = s.port := rfl
@[simp] theorem State.withJobs_placements : (s.withJobs t).placements = s.placements := rfl
@[simp] theorem State.withJobs_glyphs : (s.withJobs t).glyphs = s.glyphs := rfl
@[simp] theorem State.withJobs_ring : (s.withJobs t).ring = s.ring := rfl
@[simp] theorem State.withJobs_renderer : (s.withJobs t).renderer = s.renderer := rfl
@[simp] theorem State.withJobs_headCfg : (s.withJobs t).headCfg = s.headCfg := rfl
@[simp] theorem State.withJobs_head : (s.withJobs t).head = s.head := rfl
@[simp] theorem State.withJobs_mem : (s.withJobs t).mem = s.mem := rfl
@[simp] theorem State.withJobs_arbiter : (s.withJobs t).arbiter = s.arbiter := rfl
@[simp] theorem State.withJobs_upload : (s.withJobs t).upload = s.upload := rfl
@[simp] theorem State.withJobs_reports : (s.withJobs t).reports = s.reports := rfl
@[simp] theorem State.withJobs_irq : (s.withJobs t).irq = s.irq := rfl
@[simp] theorem State.withJobs_pending : (s.withJobs t).pending = s.pending := rfl

end

/-! ### What a look can do to bands and placements -/

/-- The job the renderer works on next is the front job if it is not ABORTING, or else the back job, and has rows to render
(R79). -/
theorem toRender_eq_some {t : JobTable} {j : Job} (h : t.toRender = some j) :
    j.rendered < j.length ∧ ((t.front = some j ∧ j.isAborting = false) ∨
      (t.back = some j ∧ ∀ k ∈ t.front, k.isAborting = true ∨ k.length ≤ k.rendered)) := by
  unfold JobTable.toRender at h
  split at h
  · rename_i k hk
    cases h
    obtain ⟨hf, hc⟩ := Option.filter_eq_some_iff.mp hk
    simp only [Bool.and_eq_true, Bool.not_eq_true', decide_eq_true_eq] at hc
    exact ⟨hc.2, .inl ⟨hf, hc.1⟩⟩
  · rename_i hn
    obtain ⟨hb, hc⟩ := Option.filter_eq_some_iff.mp h
    refine ⟨by simpa using hc, .inr ⟨hb, fun k hk => ?_⟩⟩
    have hk' := Option.filter_eq_none_iff.mp hn k hk
    simp only [Bool.and_eq_true, Bool.not_eq_true', decide_eq_true_eq, not_and, Nat.not_lt] at hk'
    cases ha : k.isAborting with
    | true => exact .inl rfl
    | false => exact .inr (hk' ha)

/-- A band after a look is a band before it, or the band claimed for the job the renderer works on next. -/
theorem bandAt_of_look {s : State} {i : Nat} {b : Band} (h : (look s).ring.bandAt i = some b) :
    s.ring.bandAt i = some b ∨
      ∃ j, s.jobs.toRender = some j ∧ i = s.ring.claim ∧ b = ⟨.rendering, j.tag, j.rendered, bandCount s.ring.h j.length j.rendered⟩ := by
  rcases look_cases s with ⟨e, -⟩ | ⟨r, -, e⟩ | ⟨j, -, hj, -, -, e⟩ <;> rw [e] at h
  · exact .inl h
  · exact .inl h
  · simp only [Ring.bandAt, claimBand_ring, List.getElem?_set] at h
    split at h
    · rename_i hi
      split at h
      · exact .inr ⟨j, hj, hi.symm, (Option.some.inj h).symm⟩
      · cases h
    · exact .inl h

/-- A band after a look that is of no job to render is a band before it. -/
theorem job_ne_of_look {s : State} {tag : Byte} (hs : ∀ i b, s.ring.bandAt i = some b → b.job ≠ tag)
    (hj : ∀ j, s.jobs.toRender = some j → j.tag ≠ tag) (i : Nat) (b : Band) (h : (look s).ring.bandAt i = some b) :
    b.job ≠ tag := by
  rcases bandAt_of_look h with h | ⟨j, hr, -, rfl⟩
  · exact hs i b h
  · exact hj j hr

/-- A look changes no placement but for its being ACTIVE. -/
theorem look_placements_job {s : State} {tag : Byte} (hs : ∀ p ∈ s.placements, p.job ≠ tag) :
    ∀ p ∈ (look s).placements, p.job ≠ tag := by
  rcases look_cases s with ⟨e, -⟩ | ⟨r, -, e⟩ | ⟨j, -, -, -, -, e⟩ <;> rw [e]
  · exact hs
  · exact hs
  · intro p hp
    obtain ⟨q, hq, rfl⟩ := List.mem_map.mp hp
    split <;> exact hs q hq

/-! ### What is freed (R18, R19, R70, R94) -/

/-- The renderer after it has abandoned a band of a job (R94). -/
def Renderer.abandoning (r : Renderer) (tag : Byte) : Renderer :=
  match r with
  | .rendering w => if w.job = tag then .idle else r
  | _ => r

/-- The second state is the first with what is left of a job freed: its bands, its placements and the band being composed;
the PRINTING band stays when it is kept (R14, R18, R70, R94). -/
structure JobFreed (tag : Byte) (keep : Bool) (s u : State) : Prop where
  headCfg : u.headCfg = s.headCfg
  proof : u.port.proof = s.port.proof
  placements : u.placements = s.placements.filter fun p => decide (p.job ≠ tag)
  renderer : u.renderer = s.renderer.abandoning tag
  base : u.ring.base = s.ring.base
  h : u.ring.h = s.ring.h
  n : u.ring.n = s.ring.n
  bands : u.ring.bands = s.ring.bandsFreed tag keep
  claim : s.ring.claimSetBack u.ring

/-- With every band FREE the claim index stays (R70). -/
theorem setBack_claim_none {r : Ring}
    (h : (List.range r.n).find? (fun d => (r.bandAt (r.back d)).isSome) = none) : r.setBack.claim = r.claim := by
  unfold Ring.back at h
  simp only [Ring.setBack, h]

/-- The claim index set back stands one after the first band that is not FREE, going back (R70). -/
theorem setBack_claim_some {r : Ring} {d : Nat}
    (h : (List.range r.n).find? (fun d => (r.bandAt (r.back d)).isSome) = some d) :
    r.setBack.claim = (r.back d + 1) % r.n := by
  unfold Ring.back at h
  simp only [Ring.setBack, h, Ring.back]

/-- The claim index set back stands one after the newest band still non-FREE (R70). -/
theorem claimSetBack_setBack (r : Ring) : r.claimSetBack r.setBack := by
  have hb : ∀ i, r.setBack.bandAt i = r.bandAt i := fun i => by simp [Ring.bandAt]
  simp only [Ring.claimSetBack, hb]
  refine ⟨fun hn => setBack_claim_none ?_, fun d hd hs hlt => setBack_claim_some ?_⟩
  · rw [List.find?_range_eq_none]
    intro d hd
    simp [hn d hd]
  · rw [List.find?_range_eq_some]
    exact ⟨hs, List.mem_range.mpr hd, fun e he => by simp [hlt e he]⟩

theorem abandonWork_renderer (tag : Byte) (s : State) : (abandonWork tag s).renderer = s.renderer.abandoning tag := by
  cases h : s.renderer with
  | rendering w =>
    by_cases hw : w.job = tag <;> simp [abandonWork, Renderer.abandoning, h, hw]
  | _ => simp [abandonWork, Renderer.abandoning, h]

/-- Freeing a job frees its bands, its placements and the band being composed, and sets the claim index back. -/
theorem freeJob_freed (tag : Byte) (keep : Bool) (s : State) : JobFreed tag keep s (freeJob tag keep s) where
  headCfg := (freeJob_labelOnly tag keep s).headCfg
  proof := (freeJob_labelOnly tag keep s).proof
  placements := freeJob_placements tag keep s
  renderer := abandonWork_renderer tag _
  base := by simp [Ring.freeBands]
  h := by simp [Ring.freeBands]
  n := by simp [Ring.freeBands]
  bands := by simp [freeBands_bands]
  claim := by
    rw [freeJob_ring]
    exact claimSetBack_setBack (s.ring.freeBands tag keep)

@[simp] theorem freeJob_port (tag : Byte) (keep : Bool) (s : State) : (freeJob tag keep s).port = s.port := by
  unfold freeJob
  rcases abandonWork_cases tag ((s.freeJobBands tag keep).freePlacements tag) with ⟨h, -⟩ | ⟨h, -⟩ <;> rw [h] <;> rfl

/-- A job stays freed under a change that leaves bands, placements and renderer. -/
theorem JobFreed.congr {tag : Byte} {keep : Bool} {s u v : State} (h : JobFreed tag keep s u)
    (hcfg : v.headCfg = u.headCfg) (hproof : v.port.proof = u.port.proof) (hpl : v.placements = u.placements)
    (hr : v.renderer = u.renderer) (hring : v.ring = u.ring) : JobFreed tag keep s v where
  headCfg := hcfg.trans h.headCfg
  proof := hproof.trans h.proof
  placements := hpl.trans h.placements
  renderer := hr.trans h.renderer
  base := hring ▸ h.base
  h := hring ▸ h.h
  n := hring ▸ h.n
  bands := hring ▸ h.bands
  claim := hring ▸ h.claim

theorem JobFreed.post {tag : Byte} {keep : Bool} {s u : State} (h : JobFreed tag keep s u) (r : Report) :
    JobFreed tag keep s (post r u) :=
  h.congr (by simp) (by simp) (by simp) (by simp) (by simp)

theorem JobFreed.frontLeaves {tag : Byte} {keep : Bool} {s u : State} (h : JobFreed tag keep s u) :
    JobFreed tag keep s (frontLeaves u) :=
  h.congr (frontLeaves_labelOnly u).headCfg (frontLeaves_labelOnly u).proof (by simp) (by simp) (by simp)

/-- The job table has no part in what is freed. -/
theorem JobFreed.withJobs {tag : Byte} {keep : Bool} {s u : State} (h : JobFreed tag keep s u) (t t' : JobTable) :
    JobFreed tag keep (s.withJobs t) (u.withJobs t') :=
  ⟨h.headCfg, h.proof, h.placements, h.renderer, h.base, h.h, h.n, h.bands, h.claim⟩

/-- What is freed after the job table was replaced is what is freed. -/
theorem freeJob_withJobs_freed (tag : Byte) (keep : Bool) (s : State) (t : JobTable) :
    JobFreed tag keep s (freeJob tag keep (s.withJobs t)) :=
  (freeJob_freed tag keep (s.withJobs t)).withJobs s.jobs (freeJob tag keep (s.withJobs t)).jobs

/-- No placement of a freed job is left. -/
theorem JobFreed.placements_job {tag : Byte} {keep : Bool} {s u : State} (h : JobFreed tag keep s u) :
    ∀ p ∈ u.placements, p.job ≠ tag := by
  intro p hp
  rw [h.placements] at hp
  exact of_decide_eq_true (List.mem_filter.mp hp).2

/-- A band that is freed or kept: band i of the freed ring. -/
theorem JobFreed.bandAt {tag : Byte} {keep : Bool} {s u : State} (h : JobFreed tag keep s u) (i : Nat) (b : Band) :
    u.ring.bandAt i = some b ↔
      s.ring.bandAt i = some b ∧ (b.job ≠ tag ∨ (keep = true ∧ b.state = .printing)) := by
  simp only [Ring.bandAt, h.bands, Ring.bandsFreed, List.getElem?_map]
  cases s.ring.bands[i]? with
  | none => simp
  | some c => simp [Option.filter_eq_some_iff]

/-! ### ABORT_JOB -/

/-- ABORT_JOB of a job present that is not ABORTING answers OK on what the abort does (R16, R18). -/
theorem exec_abortJob_of_find {s : State} {tag : Byte} {j : Job} (h : s.admits) (hp : s.port.params = [tag])
    (hj : s.jobs.find tag = some j) (ha : j.isAborting = false) :
    exec .abortJob s = .next ((abortJobAct j s).answered 0x33 .ok []) := by
  rw [exec_abortJob h]
  simp only [abortJobBody, abortJobCheck, hp, parseByte, take_jobs, hj, ha, Bool.false_eq_true, if_false, checked_ok,
    abortJobAct_take, completeWith_accept]

/-- A front job not ABORTING that is aborted with a line in flight enters ABORTING; what is not PRINTING is freed, and the
renderer looks (R18). -/
theorem abortInFlight_front {s : State} {j : Job} (hj : s.jobs.front = some j) (ha : j.isAborting = false)
    (cause : AbortCause) :
    abortInFlight cause s =
      look (freeJob j.tag true (s.withJobs ⟨some { j with state := .aborting cause }, s.jobs.back⟩)) := by
  simp [abortInFlight, hj, ha, State.updateFront, Job.abort, State.withJobs]

/-- An abort with a line in flight leaves an ABORTING front job as it is (R20). -/
theorem abortInFlight_aborting {s : State} {j : Job} (hj : s.jobs.front = some j) (ha : j.isAborting = true)
    (cause : AbortCause) : abortInFlight cause s = s := by
  simp [abortInFlight, hj, ha]

/-- Whatever job is aborted, the renderer looks at the bands as they are freed (R18, R19, R21, R70, R94). -/
theorem abortJobAct_freed {s : State} {j : Job} (hj : s.jobs.find j.tag = some j) (ha : j.isAborting = false) :
    ∃ u, JobFreed j.tag (s.jobs.isFront j.tag && s.head.lineInFlight) s u ∧ u.jobs = (abortJobAct j s).jobs ∧
      (abortJobAct j s).ring = (look u).ring ∧ (abortJobAct j s).renderer = (look u).renderer ∧
      (abortJobAct j s).placements = (look u).placements := by
  unfold abortJobAct
  by_cases hf : s.jobs.isFront j.tag = true
  · obtain ⟨k, hk, hkt⟩ := isFront_iff.mp hf
    have hkj : k = j := by
      rw [← hkt, find_front hk] at hj
      exact Option.some.inj hj
    subst hkj
    simp only [hf, if_true, Bool.true_and]
    by_cases hl : s.head.lineInFlight = true
    · rw [if_pos hl, abortInFlight_front hk ha, hl]
      exact ⟨_, freeJob_withJobs_freed k.tag true s _, by simp, rfl, rfl, rfl⟩
    · rw [if_neg hl, Bool.eq_false_iff.mpr hl]
      exact ⟨_, ((freeJob_freed k.tag false s).post _).frontLeaves, by simp [abortFrontAtOnce], settle_ring _, settle_renderer _,
        settle_placements _⟩
  · rw [if_neg hf, Bool.eq_false_iff.mpr hf]
    exact ⟨_, ((freeJob_freed j.tag false s).post _).withJobs s.jobs _, by simp [abortBack], rfl, rfl, rfl⟩

/-- Settles O24. -/
theorem abortJobWithALineInFlightWaits : Obligations.AbortJobWithALineInFlightWaits := by
  intro s h
  dsimp only
  refine ⟨fun hl => ?_, fun tag hp => ⟨fun hn => ?_, fun j hj ha => ?_, fun j hj ht ha hl => ?_, fun j hj ha => ?_⟩⟩
  · rw [exec_abortJob h]
    simp only [abortJobBody, abortJobCheck, parseByte_length hl]
    rfl
  · rw [exec_abortJob h]
    simp only [abortJobBody, abortJobCheck, hp, parseByte, take_jobs, hn]
    rfl
  · rw [exec_abortJob h]
    simp only [abortJobBody, abortJobCheck, hp, parseByte, take_jobs, hj, ha, if_true]
    rfl
  · subst ht
    let aborted : JobTable := ⟨some { j with state := .aborting .host }, s.jobs.back⟩
    have hact : abortJobAct j s = look (freeJob j.tag true (s.withJobs aborted)) := by
      unfold abortJobAct
      rw [if_pos (isFront_iff.mpr ⟨j, hj, rfl⟩), if_pos hl, abortInFlight_front hj ha]
    have hfreed : JobFreed j.tag true s (freeJob j.tag true (s.withJobs aborted)) := freeJob_withJobs_freed ..
    have hlabel := (freeJob_labelOnly j.tag true (s.withJobs aborted)).trans (look_labelOnly _)
    refine ⟨_, exec_abortJob_of_find h hp (find_front hj) ha, ?_⟩
    rw [hact]
    refine ⟨by simp, by simp [hlabel.irq], by simp [aborted], by simp, by simp, hlabel.mem, hlabel.upload, hlabel.glyphs,
      hlabel.headCfg, look_placements_job hfreed.placements_job,
      fun i b hb hk => look_bandAt ((hfreed.bandAt i b).mpr ⟨hb, hk.imp_right fun h => ⟨rfl, h⟩⟩), fun hback i b hb ht => ?_⟩
    rcases bandAt_of_look hb with hb | ⟨k, hk, -, rfl⟩
    · rcases ((hfreed.bandAt i b).mp hb).2 with hne | ⟨-, hprinting⟩
      · exact absurd ht hne
      · exact hprinting
    · rcases (toRender_eq_some hk).2 with ⟨hf, ha⟩ | ⟨hb, -⟩
      · obtain rfl : _ = k := Option.some.inj (by simpa [aborted] using hf)
        cases ha
      · exact absurd ht (hback k (by simpa [aborted] using hb))
  · obtain rfl := find_tag hj
    obtain ⟨u, hfreed, hjobs, hring, hrenderer, hplacements⟩ := abortJobAct_freed hj ha
    exact ⟨_, u, exec_abortJob_of_find h hp hj ha, hring, hrenderer, hplacements, hjobs, hfreed.headCfg, hfreed.proof,
      hfreed.placements, hfreed.renderer, hfreed.base, hfreed.h, hfreed.n, hfreed.bands, hfreed.claim⟩

/-- The report of an abort by the host (R152, R180). -/
theorem reportJobAborted_host (j : Job) :
    reportJobAborted j .host = ⟨.jobAborted, j.tag, 0xFF, 0x01, BitVec.ofNat 16 j.done, 0⟩ := rfl

/-- ABORT_JOB changes the label alone. -/
theorem abortJobAct_labelOnly (j : Job) (s : State) : LabelOnly s (abortJobAct j s) := by
  unfold abortJobAct
  split
  · split
    · exact abortInFlight_labelOnly _ s
    · exact (abortFrontAtOnce_labelOnly _ _ s).trans (settle_labelOnly _)
  · exact abortBack_labelOnly j s

/-- An abort that waits for no line leaves no band and no placement of the job, and keeps every band of another job. -/
theorem abortJobAct_atOnce {s : State} {j : Job} (hj : s.jobs.find j.tag = some j) (ha : j.isAborting = false)
    (hkeep : (s.jobs.isFront j.tag && s.head.lineInFlight) = false)
    (hleft : ∀ k, (abortJobAct j s).jobs.toRender = some k → k.tag ≠ j.tag) :
    (∀ p ∈ (abortJobAct j s).placements, p.job ≠ j.tag) ∧
      (∀ i b, s.ring.bandAt i = some b → b.job ≠ j.tag → (abortJobAct j s).ring.bandAt i = some b) ∧
      (∀ i b, (abortJobAct j s).ring.bandAt i = some b → b.job ≠ j.tag) := by
  obtain ⟨u, hfreed, hjobs, hring, -, hplacements⟩ := abortJobAct_freed hj ha
  rw [hkeep] at hfreed
  rw [hring, hplacements]
  refine ⟨look_placements_job hfreed.placements_job, fun i b hb hk => look_bandAt ((hfreed.bandAt i b).mpr ⟨hb, .inl hk⟩),
    job_ne_of_look (fun i b hb => ?_) (hjobs ▸ hleft)⟩
  exact ((hfreed.bandAt i b).mp hb).2.resolve_right (by simp)

/-- Settles O25: the front job with no line in flight, and the back job. -/
theorem abortJobWithNoLineInFlightEndsAtOnce : Obligations.AbortJobWithNoLineInFlightEndsAtOnce := by
  intro s j h hp ha hpos
  have hlabel := abortJobAct_labelOnly j s
  rcases hpos with ⟨hf, hl, hback⟩ | ⟨hb, k, hk, hkt⟩
  · have hfind := find_front hf
    have hact : abortJobAct j s = settle (abortFrontAtOnce j .host s) := by
      unfold abortJobAct
      rw [if_pos (isFront_iff.mpr ⟨j, hf, rfl⟩), if_neg (by simp [hl])]
    obtain ⟨hjobs, hreports⟩ := abortFrontAtOnce_spec j .host s
    obtain ⟨hpl, hkept, hgone⟩ := abortJobAct_atOnce hfind ha (by simp [hl]) (by
      rw [hact, settle_jobs, hjobs]
      intro k hk
      rcases (toRender_eq_some hk).2 with ⟨hb, -⟩ | ⟨hb, -⟩
      · exact hback k hb
      · cases hb)
    refine ⟨_, exec_abortJob_of_find h hp hfind ha, rfl, rfl, rfl, rfl, ?_, ?_, hlabel.mem, hlabel.upload, hlabel.glyphs,
      hlabel.headCfg, fun _ hn => absurd hf hn, hpl, hkept, hgone⟩
    · rw [if_pos hf, State.answered_jobs, hact, settle_jobs, hjobs]
    · rw [State.answered_reports, hact, settle_reports, hreports, reportJobAborted_host]
  · have hne : ∀ i ∈ s.jobs.front, i.tag ≠ j.tag := fun i hi => Option.mem_unique hk hi ▸ hkt
    have hfind := find_back hb hne
    have hnf : s.jobs.isFront j.tag = false := by
      rw [Bool.eq_false_iff, ne_eq, isFront_iff]
      rintro ⟨i, hi, hit⟩
      exact hne i hi hit
    have hact : abortJobAct j s = abortBack j s := by
      unfold abortJobAct
      rw [if_neg (by simp [hnf])]
    obtain ⟨hjobs, hhead⟩ := abortBack_spec j s
    obtain ⟨hpl, hkept, hgone⟩ := abortJobAct_atOnce hfind ha (by simp [hnf]) (by
      rw [hact, hjobs]
      intro i hi
      rcases (toRender_eq_some hi).2 with ⟨hf, -⟩ | ⟨hf, -⟩
      · exact hne i hf
      · cases hf)
    have hfj : s.jobs.front ≠ some j := fun hf => hne j hf rfl
    refine ⟨_, exec_abortJob_of_find h hp hfind ha, rfl, rfl, rfl, rfl, ?_, ?_, hlabel.mem, hlabel.upload, hlabel.glyphs,
      hlabel.headCfg, fun _ _ => hact ▸ hhead, hpl, hkept, hgone⟩
    · rw [if_neg hfj, State.answered_jobs, hact, hjobs]
    · rw [State.answered_reports, hact]
      simp [abortBack, post_records, reportJobAborted_host]

end Sys2Proof.Machine
end

section
/-! The line step, the end of a line and the hot hold (R105, R106, R110 to R120). -/

namespace Sys2Proof.Machine

/-- The command port keeps its parameter buffer when the label alone changes. -/
theorem LabelOnly.params {s t : State} (h : LabelOnly s t) : t.port.params = s.port.params := by rw [← h.port]

/-! ### Completion and abort of the front job -/

theorem completeIfDone_going {s : State} {j : Job} (hj : s.jobs.front = some j) (hd : j.done < j.length + j.trailing) :
    completeIfDone s = s := by
  simp [completeIfDone, hj, Job.total, hd]

theorem completeIfDone_last {s : State} {j : Job} (hj : s.jobs.front = some j) (ha : j.isAborting = false)
    (hd : j.length + j.trailing ≤ j.done) : completeIfDone s = completeFront j s := by
  have hn : ¬ j.done < j.total := Nat.not_lt.mpr hd
  simp [completeIfDone, hj, ha, hn]

theorem completeIfDone_none {s : State} (hj : s.jobs.front = none) : completeIfDone s = s := by
  simp [completeIfDone, hj]

@[simp] theorem completeIfDone_mode (s : State) : (completeIfDone s).head.mode = s.head.mode := by
  rcases completeIfDone_cases s with h | ⟨j, -, -, -, h⟩ <;> simp [h, completeFront]
@[simp] theorem completeIfDone_latch (s : State) : (completeIfDone s).head.latch = s.head.latch := by
  rcases completeIfDone_cases s with h | ⟨j, -, -, -, h⟩ <;> simp [h, completeFront]

/-- The history line after the front job has left: clear for the job promoted, and as it was with none (R15, R112). -/
theorem frontLeaves_history (s : State) :
    (frontLeaves s).head.history =
      if s.jobs.back = none then s.head.history else List.replicate (s.headCfg.dots / 8) 0x00 := by
  unfold frontLeaves
  split <;> rename_i h <;> rw [h] <;> simp [HeadConfig.lineBytes]

/-- A job stays freed when the state before differs in nothing that is freed. -/
theorem JobFreed.of_source {tag : Byte} {keep : Bool} {s s' u : State} (h : JobFreed tag keep s' u)
    (hcfg : s'.headCfg = s.headCfg) (hproof : s'.port.proof = s.port.proof) (hpl : s'.placements = s.placements)
    (hr : s'.renderer = s.renderer) (hring : s'.ring = s.ring) : JobFreed tag keep s u :=
  ⟨hcfg ▸ h.headCfg, hproof ▸ h.proof, hpl ▸ h.placements, hr ▸ h.renderer, hring ▸ h.base, hring ▸ h.h, hring ▸ h.n,
    hring ▸ h.bands, hring ▸ h.claim⟩

/-- A completion frees the job, promotes the back job, and the renderer looks (R13, R14, R15, R70, R78). -/
theorem completeFront_freed (j : Job) (s : State) :
    ∃ u, completeFront j s = look u ∧ JobFreed j.tag false s u ∧ u.jobs = ⟨s.jobs.back, none⟩ := by
  refine ⟨_, rfl, ?_, by simp⟩
  exact ((freeJob_freed j.tag false (post (reportJobDone j) s)).of_source (by simp) (by simp) (by simp) (by simp)
    (by simp)).frontLeaves

/-- An abort at once frees the job, promotes the back job, and the renderer looks (R19, R70, R78). -/
theorem abortFrontAtOnce_freed (j : Job) (cause : AbortCause) (s : State) :
    ∃ u, abortFrontAtOnce j cause s = look u ∧ JobFreed j.tag false s u ∧ u.jobs = ⟨s.jobs.back, none⟩ :=
  ⟨_, rfl, ((freeJob_freed j.tag false s).post _).frontLeaves, by simp⟩

/-- What is left once the renderer has looked after the front job left: nothing of that job. -/
theorem JobFreed.nothing_left {tag : Byte} {s u : State} {back : Option Job} (h : JobFreed tag false s u)
    (hj : u.jobs = ⟨back, none⟩) :
    (∀ p ∈ (look u).placements, p.job ≠ tag) ∧
      ((∀ k ∈ back, k.tag ≠ tag) → ∀ i b, (look u).ring.bandAt i = some b → b.job ≠ tag) := by
  refine ⟨look_placements_job h.placements_job, fun hback => job_ne_of_look (fun i b hb => ?_) fun k hk => ?_⟩
  · exact ((h.bandAt i b).mp hb).2.resolve_right (by simp)
  · rw [hj] at hk
    rcases (toRender_eq_some hk).2 with ⟨hb, -⟩ | ⟨hb, -⟩
    · exact hback k hb
    · cases hb

/-- What a completion leaves: the back job in front, JOB_DONE at the tail of the queue, and the history of a promotion
(R13, R15). -/
theorem completeFront_spec (j : Job) (s : State) :
    (completeFront j s).jobs = ⟨s.jobs.back, none⟩ ∧
      (completeFront j s).reports.records =
        (if s.reports.records.length < 16 then s.reports.records ++ [reportJobDone j] else s.reports.records) ∧
      (completeFront j s).head.history =
        if s.jobs.back = none then s.head.history else List.replicate (s.headCfg.dots / 8) 0x00 := by
  simp [completeFront, post_records, frontLeaves_history, (freeJob_labelOnly _ _ _).headCfg]

/-! ### A line step with no line in flight -/

theorem lineStepOp_armed {s : State} {j : Job} (hp : s.phase = .ready) (hm : s.head.mode = .armed)
    (hj : s.jobs.front = some j) : lineStepOp s = armedStep j s := by
  simp [lineStepOp, hp, hm, hj]

theorem lineStepOp_waitLine {s : State} {j : Job} (hp : s.phase = .ready) (hm : s.head.mode = .waitLine)
    (hj : s.jobs.front = some j) : lineStepOp s = underrunStep j s := by
  simp [lineStepOp, hp, hm, hj]

/-- A settle with no line in flight leaves the head channel in the settled state. -/
theorem settle_settled {s : State} (h : s.head.lineInFlight = false) : (settle s).head.mode = (settle s).settledMode := by
  rw [settle_mode h, settle_settledMode]

@[simp] theorem settle_history (s : State) : (settle s).head.history = s.head.history := by
  unfold settle
  split <;> rfl
@[simp] theorem settle_latch (s : State) : (settle s).head.latch = s.head.latch := by
  unfold settle
  split <;> rfl

theorem lineInFlight_of_mode {s t : State} (h : t.head.mode = s.head.mode) : t.head.lineInFlight = s.head.lineInFlight := by
  simp [Head.lineInFlight, h]

theorem settle_eq_withMode (s : State) : settle s = s.withMode (settle s).head.mode := by
  unfold settle
  split <;> rfl

/-- The band that holds a row of a job is one of its composed bands, and holds the row (R103). -/
theorem bandHolding_eq_some {r : Ring} {tag : Byte} {row i : Nat} (h : r.bandHolding tag row = some i) :
    ∃ b, r.bandAt i = some b ∧ b.job = tag ∧ b.composed = true ∧ b.holds row = true := by
  obtain ⟨hi, hb, -⟩ := List.findIdx?_eq_some_iff_getElem.mp h
  split at hb
  · rename_i b hbi
    simp only [Bool.and_eq_true, decide_eq_true_eq] at hb
    exact ⟨b, by simp [Ring.bandAt, hi, hbi], hb.1.1, hb.1.2, hb.2⟩
  · cases hb

/-- Settles O39: at a trailing row that is not the last the settled state is ARMED again; at the last the job completes. -/
theorem lineStepConsumesATrailingRow : Obligations.LineStepConsumesATrailingRow := by
  intro s j hp hm hj ha hlen
  have hop : exec .lineStep s = .next (settle (completeIfDone s.clearHistory.advanceDone)) := by
    simp only [exec, execLineStep, lineStepOp_armed hp hm hj, armedStep, hlen, if_true, trailingStep]
  have hfront : s.clearHistory.advanceDone.jobs.front = some { j with done := j.done + 1 } := by
    simp [State.advanceDone, hj]
  have hl : s.head.lineInFlight = false := by simp [Head.lineInFlight, hm]
  rw [hop]
  refine ⟨fun hd => ?_, fun hd => ⟨_, rfl, ?_⟩⟩
  · rw [completeIfDone_going hfront hd]
    have hr : s.clearHistory.advanceDone.settledMode = .armed := by
      simp only [State.settledMode, hfront, State.nextRowReady, Nat.le_succ_of_le hlen, decide_true, Bool.true_or, if_true]
    rw [settle_eq, if_neg (by simpa [Head.lineInFlight, State.advanceDone] using hl), hr, ← hm]
    simp [State.advanceDone, State.clearHistory, State.updateFront, HeadConfig.lineBytes, hj]
  · have ha' : ({ j with done := j.done + 1 } : Job).isAborting = false := ha
    obtain ⟨hjobs, hreports, hhist⟩ := completeFront_spec { j with done := j.done + 1 } s.clearHistory.advanceDone
    have hlabel := (completeFront_labelOnly { j with done := j.done + 1 } s.clearHistory.advanceDone).trans
      (settle_labelOnly _)
    rw [completeIfDone_last hfront ha' hd.ge]
    refine ⟨?_, ?_, ?_, settle_settled ?_, hlabel.mem, ?_, hlabel.upload⟩
    · rw [settle_jobs, hjobs]
      rfl
    · simp only [settle_reports, hreports]
      rfl
    · rw [settle_history, hhist]
      split <;> rfl
    · simpa [Head.lineInFlight, completeFront, State.advanceDone] using hl
    · exact hlabel.params

/-- Two reports posted to a queue of at most sixteen: as many of them as it has room for (R153). -/
theorem post_post_records (q r : Report) {s : State} (h : s.reports.records.length ≤ 16) :
    (post r (post q s)).reports.records = (s.reports.records ++ [q, r]).take 16 := by
  rw [post_records, post_records]
  by_cases h16 : s.reports.records.length < 16
  · by_cases h15 : s.reports.records.length < 15
    · rw [if_pos h16, if_pos (by simp; omega), List.take_of_length_le (by simp; omega)]
      simp
    · have hl : s.reports.records.length = 15 := by omega
      simp [hl, List.take_append]
  · have hl : s.reports.records.length = 16 := by omega
    simp [hl]

/-- A report posted with the queue full sets REPORTS_LOST (R153). -/
theorem post_eq (r : Report) (s : State) :
    post r s = { s with
      reports := { s.reports with records := (post r s).reports.records }
      port := { s.port with sticky := { s.port.sticky with
        reportsLost := s.port.sticky.reportsLost || decide (16 ≤ s.reports.records.length) } } } := by
  unfold post
  split
  · rename_i h
    have h' : ¬ 16 ≤ s.reports.records.length := Nat.not_le.mpr h
    simp [h']
  · rename_i h
    have h' : 16 ≤ s.reports.records.length := Nat.not_lt.mp h
    simp [h', State.withSticky]

/-- Settles O40: the three ways an underrun goes. -/
theorem lineStepInWaitLineIsAnUnderrun : Obligations.LineStepInWaitLineIsAnUnderrun := by
  have hstep : ∀ (s : State) (j : Job), s.phase = .ready → s.head.mode = .waitLine → s.jobs.front = some j →
      exec .lineStep s = .next (underrunStep j s) := fun s j hp hm hj => by
    simp only [exec, execLineStep, lineStepOp_waitLine hp hm hj]
  have hflight : ∀ (s : State), s.head.mode = .waitLine → s.head.lineInFlight = false := fun s hm => by
    simp [Head.lineInFlight, hm]
  refine ⟨fun s j hp hm hj hpol ha hd => ?_, fun s j hp hm hj hpol ha hd hq => ?_, fun s j hp hm hj hpol hback => ?_⟩
  · have hfront : (post (reportUnderrun j.tag j.done) s.clearHistory.advanceBlank).jobs.front =
        some { j with done := j.done + 1, blankRows := j.blankRows + 1 } := by simp [hj]
    have hx : underrunStep j s = settle (post (reportUnderrun j.tag j.done) s.clearHistory.advanceBlank) := by
      simp only [underrunStep, hpol, completeIfDone_going hfront hd]
    refine ⟨_, hstep s j hp hm hj, ?_⟩
    rw [hx]
    refine ⟨by rw [settle_reports, post_records]; rfl, settle_settled ?_, ?_⟩
    · simpa [Head.lineInFlight] using hflight s hm
    · rw [settle_reports]
      conv_lhs => rw [settle_eq_withMode]
      generalize (settle _).head.mode = m
      conv_lhs => rw [post_eq]
      simp [State.withMode, State.advanceBlank, State.clearHistory, State.updateFront, HeadConfig.lineBytes, hj]
  · have hfront : (post (reportUnderrun j.tag j.done) s.clearHistory.advanceBlank).jobs.front =
        some { j with done := j.done + 1, blankRows := j.blankRows + 1 } := by simp [hj]
    have hx : underrunStep j s = settle (completeFront { j with done := j.done + 1, blankRows := j.blankRows + 1 }
        (post (reportUnderrun j.tag j.done) s.clearHistory.advanceBlank)) := by
      simp only [underrunStep, hpol, completeIfDone_last hfront ha hd.ge]
    generalize hk : ({ j with done := j.done + 1, blankRows := j.blankRows + 1 } : Job) = k at hx
    obtain ⟨u, hu, hfreed, hjobs⟩ :=
      completeFront_freed k (post (reportUnderrun j.tag j.done) s.clearHistory.advanceBlank)
    obtain ⟨hjobs', -, hhist⟩ :=
      completeFront_spec k (post (reportUnderrun j.tag j.done) s.clearHistory.advanceBlank)
    have hfreed' : JobFreed j.tag false s u := by
      have htag : k.tag = j.tag := by rw [← hk]
      rw [← htag]
      exact hfreed.of_source (by simp) (by simp) (by simp) (by simp) (by simp)
    have hlabel := underrunStep_labelOnly j s
    refine ⟨_, u, hstep s j hp hm hj, ?_⟩
    rw [hx] at hlabel ⊢
    refine ⟨?_, ?_, ?_, settle_settled ?_, hlabel.mem, hlabel.upload, ?_, by rw [settle_ring, hu],
      by rw [settle_renderer, hu], by rw [settle_placements, hu], ?_, hfreed'.headCfg, hfreed'.proof, hfreed'.placements,
      hfreed'.renderer, hfreed'.base, hfreed'.h, hfreed'.n, hfreed'.bands, hfreed'.claim⟩
    · simp [hjobs']
    · have hreports : ∀ x : State, (completeFront k x).reports = (post (reportJobDone k) x).reports := fun x => by
        simp [completeFront]
      rw [settle_reports, hreports, post_post_records _ _ (s := s.clearHistory.advanceBlank) hq, ← hk]
      rfl
    · rw [settle_history, hhist]
      split <;> simp [HeadConfig.lineBytes]
    · rw [lineInFlight_of_mode (s := s) (by simp [completeFront]), hflight s hm]
    · rw [settle_placements, hu]
      exact (hfreed'.nothing_left hjobs).1
    · simp [hjobs, hjobs']
  · obtain ⟨u, hu, hfreed, hjobs⟩ := abortFrontAtOnce_freed j .underrun s
    obtain ⟨hjobs', hreports⟩ := abortFrontAtOnce_spec j .underrun s
    have hlabel := (abortFrontAtOnce_labelOnly j .underrun s).trans (settle_labelOnly _)
    have hmode : (abortFrontAtOnce j .underrun s).head.mode = s.head.mode := by simp [abortFrontAtOnce]
    obtain ⟨hpl, hgone⟩ := hfreed.nothing_left hjobs
    refine ⟨_, hstep s j hp hm hj, ?_⟩
    simp only [underrunStep, hpol]
    refine ⟨by rw [settle_jobs, hjobs'], by rw [settle_reports, hreports]; rfl, ?_, ?_, settle_settled ?_, hlabel.mem, hlabel.upload, hlabel.headCfg⟩
    · rw [settle_placements, hu]
      exact hpl
    · rw [settle_ring, hu]
      exact hgone hback
    · rw [lineInFlight_of_mode hmode, hflight s hm]

/-! ### The state and the latch of the head channel (R105, R115, R117) -/

/-- The head channel's state and latch replaced. -/
def State.headed (s : State) (m : HeadMode) (b : Bool) : State :=
  { s with head := { s.head with mode := m, latch := b } }

/-- An operation over the label alone that does not look at its surroundings commutes with another state and latch of the
head channel. -/
theorem headed_comm {f : State → State} (hf : ∀ d s, f (State.within s d) = (f s).within d)
    (hl : ∀ s, LabelOnly s (f s)) (s : State) (m : HeadMode) (b : Bool) : f (s.headed m b) = (f s).headed m b := by
  have h := hf ⟨s.port.params, s.port.answer, s.port.answerPos, s.port.busy, s.port.cmd, m, b⟩ s
  have hp : { (f s).port with
      params := s.port.params, answer := s.port.answer, answerPos := s.port.answerPos, busy := s.port.busy
      cmd := s.port.cmd } = (f s).port := by rw [← (hl s).port]
  refine Eq.trans h ?_
  unfold State.within State.headed
  rw [hp]

/-- The latch served, in one form for both cases (R110, R117). -/
theorem serveLatch_eq (s : State) :
    serveLatch s = if s.head.latch then servedStep (s.headed .idle false) else settle (s.headed .idle false) := by
  unfold serveLatch
  split
  · rfl
  · rename_i h
    rw [Bool.not_eq_true] at h
    simp [State.withMode, State.headed, h]

/-- A settle takes no account of the state it replaces. -/
theorem settle_headed {s : State} {m : HeadMode} (hs : s.head.lineInFlight = false)
    (hm : (s.headed m s.head.latch).head.lineInFlight = false) : settle (s.headed m s.head.latch) = settle s := by
  rw [settle_eq, settle_eq, if_neg (by simp [hm]), if_neg (by simp [hs])]
  rfl

/-- A settle takes no account of the state it replaces, after an operation that does not look at it either. -/
theorem settle_comp_withMode {f : State → State} (hf : ∀ d s, f (State.within s d) = (f s).within d)
    (hl : ∀ s, LabelOnly s (f s)) (hmode : ∀ s, (f s).head.mode = s.head.mode)
    (hlatch : ∀ s, (f s).head.latch = s.head.latch) {s : State} {m : HeadMode} (hs : s.head.lineInFlight = false)
    (hm : (s.withMode m).head.lineInFlight = false) : settle (f (s.withMode m)) = settle (f s) := by
  have h : f (s.withMode m) = (f s).headed m (f s).head.latch := by
    rw [hlatch]
    exact headed_comm hf hl s m s.head.latch
  rw [h]
  exact settle_headed (by rw [lineInFlight_of_mode (hmode s), hs]) hm

/-! ### The end of an abort, and a line abandoned (R19, R116, R120) -/

theorem endAbort_aborting {s : State} {j : Job} {cause : AbortCause} (hj : s.jobs.front = some j)
    (hc : j.state = .aborting cause) :
    endAbort s = look (frontLeaves (post (reportJobAborted j cause) (s.freeJobBands j.tag false))) := by
  simp [endAbort, hj, hc]

theorem endAbort_other {s : State} {j : Job} (hj : s.jobs.front = some j) (ha : j.isAborting = false) :
    endAbort s = s := by
  cases hc : j.state <;> simp [endAbort, hj, hc]
  simp [Job.isAborting, hc] at ha

@[simp] theorem endAbort_mode (s : State) : (endAbort s).head.mode = s.head.mode := by
  unfold endAbort
  split
  · split <;> simp
  · rfl
@[simp] theorem endAbort_latch (s : State) : (endAbort s).head.latch = s.head.latch := by
  unfold endAbort
  split
  · split <;> simp
  · rfl

/-- What the end of an abort leaves: the back job in front, JOB_ABORTED at the tail of the queue, and the history of a
promotion (R15, R19). -/
theorem endAbort_spec {s : State} {j : Job} {cause : AbortCause} (hj : s.jobs.front = some j)
    (hc : j.state = .aborting cause) :
    (endAbort s).jobs = ⟨s.jobs.back, none⟩ ∧
      (endAbort s).reports.records = (if s.reports.records.length < 16 then
        s.reports.records ++ [⟨.jobAborted, j.tag, 0xFF, cause.code, BitVec.ofNat 16 j.done, 0⟩]
        else s.reports.records) ∧
      (endAbort s).head.history =
        (if s.jobs.back = none then s.head.history else List.replicate (s.headCfg.dots / 8) 0x00) := by
  rw [endAbort_aborting hj hc]
  refine ⟨by simp, ?_, by simp [frontLeaves_history]⟩
  rw [look_reports, frontLeaves_reports, post_records]
  rfl

/-- After the end of an abort no band of the job is left (R19). -/
theorem endAbort_bands {s : State} {j : Job} {cause : AbortCause} (hj : s.jobs.front = some j)
    (hc : j.state = .aborting cause) (hback : ∀ k ∈ s.jobs.back, k.tag ≠ j.tag) (i : Nat) (b : Band)
    (h : (endAbort s).ring.bandAt i = some b) : b.job ≠ j.tag := by
  rw [endAbort_aborting hj hc] at h
  refine job_ne_of_look (fun i b hb => ?_) (fun k hk => ?_) i b h
  · have hf := (freeJob_freed j.tag false s).bandAt i b
    rw [freeJob_ring] at hf
    rw [frontLeaves_ring, post_ring, State.freeJobBands_ring] at hb
    exact (hf.mp hb).2.resolve_right (by simp)
  · simp only [frontLeaves_jobs, post_jobs, State.freeJobBands_jobs] at hk
    rcases (toRender_eq_some hk).2 with ⟨hb, -⟩ | ⟨hb, -⟩
    · exact hback k hb
    · cases hb

/-- A line of an ABORTING job abandoned with the latch clear: the abort ends, and the head channel settles (R116, R120). -/
theorem abandonLine_spec {s : State} {j : Job} {cause : AbortCause} (hj : s.jobs.front = some j)
    (hc : j.state = .aborting cause) (hl : s.head.latch = false) :
    (abandonLine s).jobs = ⟨s.jobs.back, none⟩ ∧ (abandonLine s).head.mode = (abandonLine s).settledMode ∧
      (abandonLine s).head.latch = false ∧
      (abandonLine s).reports.records = (if s.reports.records.length < 16 then
        s.reports.records ++ [⟨.jobAborted, j.tag, 0xFF, cause.code, BitVec.ofNat 16 j.done, 0⟩]
        else s.reports.records) := by
  obtain ⟨hjobs, hreports, -⟩ := endAbort_spec hj hc
  have hl' : ((endAbort s).orphan .fetch).head.latch = false := by simp [hl]
  unfold abandonLine
  rw [serveLatch_of_clear hl']
  exact ⟨hjobs, rfl, hl', hreports⟩

/-- What an abort with a line in flight leaves of job table, head channel and reports (R18). -/
theorem abortInFlight_spec {s : State} {j : Job} (hj : s.jobs.front = some j) (ha : j.isAborting = false)
    (cause : AbortCause) :
    (abortInFlight cause s).jobs = ⟨some { j with state := .aborting cause }, s.jobs.back⟩ ∧
      (abortInFlight cause s).reports = s.reports := by
  rw [abortInFlight_front hj ha]
  simp

/-- Settles O46. -/
theorem holdExpiryAbandonsTheLine : Obligations.HoldExpiryAbandonsTheLine := by
  intro s j p n line hm hj hl
  have hop : exec .hotHoldExpire s = .next (abandonLine (abortInFlight .headHot s)) := by
    simp [exec, execHotHoldExpire, expireHold, hm]
  have hlabel := (abortInFlight_labelOnly .headHot s).trans (abandonLine_labelOnly _)
  refine ⟨_, hop, ?_⟩
  cases ha : j.isAborting with
  | false =>
    obtain ⟨hjobs, hreports⟩ := abortInFlight_spec hj ha .headHot
    obtain ⟨hjobs', hmode, -, hreports'⟩ :=
      abandonLine_spec (cause := .headHot) (by rw [hjobs]) rfl (by simpa using hl : (abortInFlight .headHot s).head.latch = false)
    rw [hjobs] at hjobs'
    rw [hreports] at hreports'
    refine ⟨hjobs', hmode, hlabel.hot, hlabel.mem, ?_⟩
    rw [hreports']
    cases hc : j.state with
    | aborting cause => simp [Job.isAborting, hc] at ha
    | _ => rfl
  | true =>
    rw [abortInFlight_aborting hj ha] at hlabel ⊢
    cases hc : j.state with
    | aborting cause =>
      obtain ⟨hjobs, hmode, -, hreports⟩ := abandonLine_spec hj hc hl
      refine ⟨hjobs, hmode, hlabel.hot, hlabel.mem, ?_⟩
      rw [hreports]
      cases cause <;> rfl
    | _ => simp [Job.isAborting, hc] at ha

/-- A lost step: the line is ending; it goes on during a pulse and is abandoned otherwise (R116). -/
theorem loseStep_eq (phase : LinePhase) (line : Line) (s : State) :
    loseStep phase line s =
      if phase.isStrobe then abortInFlight .stepLost (s.headed (.inFlight phase { line with ending := true }) false)
      else abandonLine (abortInFlight .stepLost (s.headed (.inFlight phase { line with ending := true }) false)) := by
  cases phase <;> rfl

/-- Settles O41. -/
theorem secondStepLosesTheLine : Obligations.SecondStepLosesTheLine := by
  have hop : ∀ (s : State) (phase : LinePhase) (line : Line), s.phase = .ready → s.head.mode = .inFlight phase line →
      line.ending = false → s.head.latch = true → exec .lineStep s = .next (loseStep phase line s) := by
    intro s phase line hp hm he hl
    simp [exec, execLineStep, lineStepOp, hp, hm, he, hl]
  refine ⟨fun s j phase line hp hj hm he hl ha => ⟨_, hop s phase line hp hm he hl, ?_⟩,
    fun s j cause phase line hp hj hm he hl hc => ⟨_, hop s phase line hp hm he hl, ?_⟩⟩
  · have hlabel := loseStep_labelOnly phase line s
    obtain ⟨hjobs, hreports⟩ := abortInFlight_spec (s := s.headed (.inFlight phase { line with ending := true }) false) hj ha .stepLost
    rw [loseStep_eq] at hlabel ⊢
    cases hs : phase.isStrobe with
    | true =>
      simp only [hs, if_true] at hlabel ⊢
      refine ⟨by rw [abortInFlight_mode]; rfl, hlabel.mem, hlabel.upload, fun _ => ⟨by rw [abortInFlight_mode]; rfl, by rw [abortInFlight_mode]; rfl, hjobs, hreports⟩, by simp⟩
    | false =>
      simp only [hs, Bool.false_eq_true, if_false] at hlabel ⊢
      obtain ⟨hjobs', hmode, hlatch, hreports'⟩ := abandonLine_spec (cause := .stepLost) (by rw [hjobs]) rfl (by rw [abortInFlight_mode]; rfl)
      rw [hjobs] at hjobs'
      rw [hreports] at hreports'
      exact ⟨hlatch, hlabel.mem, hlabel.upload, by simp, fun _ => ⟨hjobs', hmode, hreports'⟩⟩
  · have ha : j.isAborting = true := by simp [Job.isAborting, hc]
    have hlabel := loseStep_labelOnly phase line s
    rw [loseStep_eq, abortInFlight_aborting (s := s.headed (.inFlight phase { line with ending := true }) false) hj ha] at hlabel ⊢
    cases hs : phase.isStrobe with
    | true =>
      simp only [hs, if_true] at hlabel ⊢
      exact ⟨rfl, rfl, rfl, fun _ => rfl, by simp⟩
    | false =>
      simp only [hs, Bool.false_eq_true, if_false] at hlabel ⊢
      obtain ⟨hjobs, hmode, hlatch, hreports⟩ := abandonLine_spec (s := s.headed (.inFlight phase { line with ending := true }) false) hj hc rfl
      exact ⟨hlatch, hlabel.mem, hlabel.upload, by simp, fun _ => ⟨hjobs, hmode, hreports⟩⟩

/-! ### The end of a printed line (R110) -/

/-- The row of a line has been printed: the history line is the line's, and the done row advances (R110, steps 1 and 2). -/
def printed (line : Line) (s : State) : State :=
  ({ s with head := { s.head with history := line.bytes } } : State).advanceDone

/-- What the end of a printed line does before the latch is served (R110, steps 1 to 4). -/
def linePrinted (line : Line) (s : State) : State := endAbortOrComplete (releaseBand line (printed line s))

theorem endLine_eq (line : Line) (s : State) : endLine line s = serveLatch (linePrinted line s) := rfl

theorem printed_eq {s : State} {j : Job} (hj : s.jobs.front = some j) (line : Line) :
    printed line s = { s with
      jobs := ⟨some { j with done := j.done + 1 }, s.jobs.back⟩
      head := { s.head with history := line.bytes } } := by
  simp [printed, State.advanceDone, State.updateFront, hj]

theorem releaseBand_cases (line : Line) (s : State) :
    releaseBand line s = s ∨ ∃ b, s.ring.bandAt line.band = some b ∧ line.row + 1 = b.first + b.count ∧
      releaseBand line s = look (s.setBand line.band none) := by
  unfold releaseBand
  split
  · rename_i b hb
    split
    · rename_i hr
      exact .inr ⟨b, hb, hr, rfl⟩
    · exact .inl rfl
  · exact .inl rfl

@[simp] theorem releaseBand_jobs (line : Line) (s : State) : (releaseBand line s).jobs = s.jobs := by
  rcases releaseBand_cases line s with h | ⟨b, -, -, h⟩ <;> simp [h]
@[simp] theorem releaseBand_head (line : Line) (s : State) : (releaseBand line s).head = s.head := by
  rcases releaseBand_cases line s with h | ⟨b, -, -, h⟩ <;> simp [h]
@[simp] theorem releaseBand_reports (line : Line) (s : State) : (releaseBand line s).reports = s.reports := by
  rcases releaseBand_cases line s with h | ⟨b, -, -, h⟩ <;> simp [h]
@[simp] theorem releaseBand_arbiter (line : Line) (s : State) : (releaseBand line s).arbiter = s.arbiter := by
  rcases releaseBand_cases line s with h | ⟨b, -, -, h⟩ <;> simp [h]

@[simp] theorem releaseBand_headCfg (line : Line) (s : State) : (releaseBand line s).headCfg = s.headCfg :=
  (releaseBand_labelOnly line s).headCfg

theorem printed_labelOnly (line : Line) (s : State) : LabelOnly s (printed line s) :=
  labelOnly_of_parts s _ _ _ _ _ _ _

theorem linePrinted_labelOnly (line : Line) (s : State) : LabelOnly s (linePrinted line s) :=
  ((printed_labelOnly line s).trans (releaseBand_labelOnly _ _)).trans (endAbortOrComplete_labelOnly _)

@[simp] theorem linePrinted_mode (line : Line) (s : State) : (linePrinted line s).head.mode = s.head.mode := by
  unfold linePrinted endAbortOrComplete
  split
  · split <;> simp [printed]
  · simp [printed]
@[simp] theorem linePrinted_latch (line : Line) (s : State) : (linePrinted line s).head.latch = s.head.latch := by
  unfold linePrinted endAbortOrComplete
  split
  · split <;> simp [printed]
  · simp [printed]

section
variable {s : State} {j : Job} (line : Line) (hj : s.jobs.front = some j)
include hj

theorem releaseBand_printed_front :
    (releaseBand line (printed line s)).jobs = ⟨some { j with done := j.done + 1 }, s.jobs.back⟩ := by
  rw [releaseBand_jobs, printed_eq hj]

/-- A job that goes on: only the band is released (R110). -/
theorem linePrinted_going (ha : j.isAborting = false) (hd : j.done + 1 < j.length + j.trailing) :
    linePrinted line s = releaseBand line (printed line s) := by
  have hfront := congrArg JobTable.front (releaseBand_printed_front line hj)
  have ha' : ({ j with done := j.done + 1 } : Job).isAborting = false := ha
  simp only [linePrinted, endAbortOrComplete, hfront, ha', Bool.false_eq_true, if_false, completeIfDone_going hfront hd]

/-- A job whose last row has gone completes (R13, R110). -/
theorem linePrinted_last (ha : j.isAborting = false) (hd : j.length + j.trailing ≤ j.done + 1) :
    linePrinted line s = completeFront { j with done := j.done + 1 } (releaseBand line (printed line s)) := by
  have hfront := congrArg JobTable.front (releaseBand_printed_front line hj)
  have ha' : ({ j with done := j.done + 1 } : Job).isAborting = false := ha
  simp only [linePrinted, endAbortOrComplete, hfront, ha', Bool.false_eq_true, if_false, completeIfDone_last hfront ha' hd]

/-- The abort of an ABORTING job ends (R19, R110). -/
theorem linePrinted_aborting (ha : j.isAborting = true) :
    linePrinted line s = endAbort (releaseBand line (printed line s)) := by
  have hfront := congrArg JobTable.front (releaseBand_printed_front line hj)
  have ha' : ({ j with done := j.done + 1 } : Job).isAborting = true := ha
  simp only [linePrinted, endAbortOrComplete, hfront, ha', if_true]

end

/-! ### The latch served is a line step after a settle (R117) -/

section
variable (d : Surroundings) (s : State)

theorem releaseBand_within (line : Line) : releaseBand line (s.within d) = (releaseBand line s).within d := by
  simp only [releaseBand, within_ring]
  split
  · rw [within_ite, ← look_within]
    rfl
  · rfl

theorem endAbortOrComplete_within : endAbortOrComplete (s.within d) = (endAbortOrComplete s).within d := by
  simp only [endAbortOrComplete, within_jobs, endAbort_within, completeIfDone_within]
  split
  · rw [within_ite]
  · rfl

theorem linePrinted_within (line : Line) : linePrinted line (s.within d) = (linePrinted line s).within d := by
  have h : printed line (s.within d) = (printed line s).within d := rfl
  unfold linePrinted
  rw [h, releaseBand_within, endAbortOrComplete_within]

theorem abandoned_within : (endAbort (s.within d)).orphan .fetch = ((endAbort s).orphan .fetch).within d := by
  rw [endAbort_within]
  rfl

end

section
variable {s : State} {m : HeadMode} (hs : s.head.lineInFlight = false) (hm : (s.withMode m).head.lineInFlight = false)
include hs hm

/-- A trailing row is consumed alike in every state of the head channel with no line in flight. -/
theorem trailingStep_withMode : trailingStep (s.withMode m) = trailingStep s :=
  settle_comp_withMode (f := fun s => completeIfDone s.clearHistory.advanceDone)
    (fun d s => completeIfDone_within d s.clearHistory.advanceDone)
    (fun s => (labelOnly_of_parts s _ _ _ _ _ _ _ : LabelOnly s s.clearHistory.advanceDone).trans
      (completeIfDone_labelOnly _)) (by simp) (by simp) hs hm

/-- An underrun goes alike in every state of the head channel with no line in flight. -/
theorem underrunStep_withMode (j : Job) : underrunStep j (s.withMode m) = underrunStep j s := by
  unfold underrunStep
  cases j.policy with
  | blank =>
    refine settle_comp_withMode (f := fun s => completeIfDone (post (reportUnderrun j.tag j.done) s.clearHistory.advanceBlank))
      (fun d s => ?_) (fun s => ?_) (by simp) (by simp) hs hm
    · rw [← completeIfDone_within, ← post_within]
      rfl
    · exact ((labelOnly_of_parts s _ _ _ _ _ _ _ : LabelOnly s s.clearHistory.advanceBlank).trans
        (post_labelOnly _ _)).trans (completeIfDone_labelOnly _)
  | abort =>
    exact settle_comp_withMode (fun d s => abortFrontAtOnce_within d s j .underrun)
      (abortFrontAtOnce_labelOnly j .underrun) (by simp [abortFrontAtOnce]) (by simp [abortFrontAtOnce]) hs hm

theorem armedStep_withMode (j : Job) : armedStep j (s.withMode m) = armedStep j s := by
  have hstart : ∀ i, startLine j i (s.withMode m) = startLine j i s ∨ s.ring.bandAt i = none := by
    intro i
    cases hb : s.ring.bandAt i with
    | none => exact .inr rfl
    | some b => simp [startLine, hb, State.withMode, State.setBand, State.lineAddr, State.bandAddr]
  simp only [armedStep, trailingStep_withMode hs hm, underrunStep_withMode hs hm, State.withMode_ring]
  split
  · rfl
  · split
    · rename_i i hi
      obtain ⟨b, hb, -⟩ := bandHolding_eq_some hi
      exact (hstart i).resolve_right (by simp [hb])
    · rfl

end

/-- A step served from the latch is what a line step after a settle is: ignored with the table empty, taken in ARMED, and an
underrun in WAIT_LINE (R117). -/
theorem lineStepOp_settle {s : State} (hp : s.phase = .ready) (hs : s.head.lineInFlight = false) :
    lineStepOp (settle s) = servedStep s := by
  have hset : settle s = s.withMode s.settledMode := by rw [settle_eq, if_neg (by simp [hs])]; rfl
  unfold servedStep
  cases hj : s.jobs.front with
  | none =>
    have hmode : s.settledMode = .idle := by simp [State.settledMode, hj]
    rw [hset, hmode]
    simp only [lineStepOp, State.withMode_phase, hp, if_true]
    rfl
  | some j =>
    by_cases hr : s.nextRowReady j = true
    · have hmode : s.settledMode = .armed := by simp [State.settledMode, hj, hr]
      rw [hset, hmode, lineStepOp_armed (s := s.withMode .armed) hp rfl hj]
      simp only [hr, if_true]
      exact armedStep_withMode hs rfl j
    · have hmode : s.settledMode = .waitLine := by simp [State.settledMode, hj, hr]
      rw [hset, hmode, lineStepOp_waitLine (s := s.withMode .waitLine) hp rfl hj]
      simp only [hr]
      exact underrunStep_withMode hs rfl j

/-! ### The events that end a line, with the latch set and with it clear -/

/-- The state with the latch set or clear. -/
def State.latched (s : State) (b : Bool) : State := { s with head := { s.head with latch := b } }

theorem latched_self {s : State} {b : Bool} (h : s.head.latch = b) : s.latched b = s := by
  subst h
  rfl

theorem post_latched (r : Report) (s : State) (b : Bool) : post r (s.latched b) = (post r s).latched b := by
  have h := headed_comm (fun d s => post_within d s r) (post_labelOnly r) s s.head.mode b
  refine Eq.trans h ?_
  simp [State.headed, State.latched]

/-- The event either goes on with the line in flight, whether the latch is set or not, or ends it: it leads to a state that
has nothing to do with the latch, in which the latch is served. -/
def EndsOrGoesOn (f : State → State) (s : State) : Prop :=
  (∀ b, (f (s.latched b)).head.lineInFlight = true) ∨
    ∃ x : State, x.phase = s.phase ∧ ∀ b, f (s.latched b) = serveLatch (x.latched b)

theorem endsOrGoesOn_id {s : State} (h : s.head.lineInFlight = true) : EndsOrGoesOn id s := .inl fun _ => h

/-- Two events that do the same on a state end its line or go on alike. -/
theorem EndsOrGoesOn.congr {f f' : State → State} {s : State} (h : EndsOrGoesOn f s)
    (hf : ∀ b, f' (s.latched b) = f (s.latched b)) : EndsOrGoesOn f' s := by
  rcases h with h | ⟨x, hx, h⟩
  · exact .inl fun b => by rw [hf, h]
  · exact .inr ⟨x, hx, fun b => by rw [hf, h]⟩

/-- An event that does something over the label alone and then serves the latch ends its line. -/
theorem endsOrGoesOn_serveLatch {g : State → State} (hg : ∀ d s, g (State.within s d) = (g s).within d)
    (hl : ∀ s, LabelOnly s (g s)) (s : State) : EndsOrGoesOn (fun s => serveLatch (g s)) s := by
  refine .inr ⟨g s, (hl s).phase, fun b => ?_⟩
  have hx : g (s.latched b) = (g s).headed s.head.mode b := headed_comm hg hl s s.head.mode b
  dsimp only
  rw [hx, serveLatch_eq, serveLatch_eq]
  rfl

theorem endLine_endsOrGoesOn (line : Line) (s : State) : EndsOrGoesOn (endLine line) s :=
  endsOrGoesOn_serveLatch (fun d s => linePrinted_within d s line) (linePrinted_labelOnly line) s

theorem takeUpGroup_endsOrGoesOn (p : Pass) (k : Nat) (line : Line) (s : State) :
    EndsOrGoesOn (takeUpGroup p k line) s := by
  cases hg : nextGroup s.headCfg (line.passBytes p) k with
  | some g =>
    left
    intro b
    have hg' : nextGroup (s.latched b).headCfg (line.passBytes p) k = some g := hg
    simp only [takeUpGroup, hg']
    split
    · rfl
    · simp [startPulse_head, Head.lineInFlight]
  | none =>
    have hg' : ∀ b, nextGroup (s.latched b).headCfg (line.passBytes p) k = none := fun _ => hg
    cases p with
    | pre => exact .inl fun b => by simp only [takeUpGroup, hg']; rfl
    | main => exact (endLine_endsOrGoesOn line s).congr fun b => by simp only [takeUpGroup, hg']

theorem abandonLine_endsOrGoesOn (s : State) : EndsOrGoesOn abandonLine s :=
  endsOrGoesOn_serveLatch (g := fun s => (endAbort s).orphan .fetch) abandoned_within
    (fun s => (endAbort_labelOnly s).trans (labelOnly_of_parts _ _ _ _ _ _ _ _)) s

theorem endShift_endsOrGoesOn {s : State} (h : s.head.lineInFlight = true) : EndsOrGoesOn endShift s := by
  cases hm : s.head.mode with
  | inFlight phase line =>
    cases phase with
    | shift p n => exact (takeUpGroup_endsOrGoesOn p 1 line s).congr fun b => by simp [endShift, State.latched, hm]
    | _ => exact (endsOrGoesOn_id h).congr fun b => by simp [endShift, State.latched, hm]
  | _ => simp [Head.lineInFlight, hm] at h

theorem endPulse_endsOrGoesOn {s : State} (h : s.head.lineInFlight = true) : EndsOrGoesOn endPulse s := by
  cases hm : s.head.mode with
  | inFlight phase line =>
    cases phase with
    | strobe p n =>
      cases he : line.ending with
      | true => exact (abandonLine_endsOrGoesOn s).congr fun b => by simp [endPulse, State.latched, hm, he]
      | false =>
        exact (takeUpGroup_endsOrGoesOn p (line.group + 1) line s).congr fun b => by
          simp [endPulse, State.latched, hm, he]
    | _ => exact (endsOrGoesOn_id h).congr fun b => by simp [endPulse, State.latched, hm]
  | _ => simp [Head.lineInFlight, hm] at h

theorem expireHold_endsOrGoesOn {s : State} (h : s.head.lineInFlight = true) : EndsOrGoesOn expireHold s := by
  cases hm : s.head.mode with
  | inFlight phase line =>
    cases phase with
    | hold p n =>
      refine (endsOrGoesOn_serveLatch (g := fun s => (endAbort (abortInFlight .headHot s)).orphan .fetch) (fun d s => ?_)
        (fun s => ?_) s).congr fun b => ?_
      · rw [abortInFlight_within, abandoned_within]
      · exact ((abortInFlight_labelOnly _ s).trans (endAbort_labelOnly _)).trans (labelOnly_of_parts _ _ _ _ _ _ _ _)
      · simp [expireHold, State.latched, hm, abandonLine]
    | _ => exact (endsOrGoesOn_id h).congr fun b => by simp [expireHold, State.latched, hm]
  | _ => simp [Head.lineInFlight, hm] at h

theorem lineFetched_endsOrGoesOn (line : Line) (s : State) : EndsOrGoesOn (lineFetched line) s := by
  by_cases hd : hasDots line.bytes = true
  · left
    intro b
    simp only [lineFetched, hd, if_true]
    split <;> rfl
  · exact (endLine_endsOrGoesOn line s).congr fun b => by simp only [lineFetched, hd]; rfl

/-! ### The access performed has nothing to do with the latch -/

theorem endSegment_latched (g : Segment) (s : State) (b : Bool) :
    endSegment g (s.latched b) = (endSegment g s).latched b := by
  unfold endSegment
  split
  · simp only [post_latched]
    rfl
  · rfl

theorem setCurrent_latched (g : Segment) (fifo : List Byte) (s : State) (b : Bool) :
    setCurrent g fifo (s.latched b) = (setCurrent g fifo s).latched b := by
  have h := endSegment_latched g { s with upload := { s.upload with cur := some g, fifo := fifo } } b
  by_cases hl : g.bytesLeft = 0
  · simp only [setCurrent, hl, if_true]
    exact h
  · simp only [setCurrent, hl, if_false]
    rfl

theorem progress_latched (c : Client) (v : Byte) (s : State) (b : Bool) :
    progress c v (s.latched b) = (progress c v s).latched b := by
  cases c with
  | fetch =>
    cases hm : s.head.mode with
    | inFlight phase line => cases phase <;> simp [progress, State.latched, hm, State.withMode]
    | _ => simp [progress, State.latched, hm]
  | rotating k =>
    cases k with
    | renderer => cases hr : s.renderer <;> simp [progress, State.latched, hr, Work.advance]
    | upload =>
      cases hu : s.upload.cur with
      | none => simp [progress, State.latched, hu]
      | some g =>
        have hu' : (s.latched b).upload.cur = some g := hu
        cases hd : g.direction with
        | dirIn =>
          simp only [progress, hu, hu', hd]
          exact setCurrent_latched _ _ s b
        | dirOut =>
          simp only [progress, hu, hu', hd]
          rfl
    | port =>
      cases hp : s.phase with
      | clearing a => simp [progress, State.latched, hp]
      | _ => cases hc : s.port.proof <;> simp [progress, State.latched, hp, hc]

theorem perform_latched (s : State) (b : Bool) : perform (s.latched b) = (perform s).latched b := by
  cases ha : s.arbiter.inProgress with
  | none => simp [perform, State.latched, ha]
  | some a =>
    have ha' : (s.latched b).arbiter.inProgress = some a := ha
    simp only [perform, ha, ha']
    have hl : ({ s.latched b with arbiter := { (s.latched b).arbiter with inProgress := none } } : State).land a =
        (({ s with arbiter := { s.arbiter with inProgress := none } } : State).land a).latched b := by
      cases hw : a.write <;> simp [State.land, hw, State.latched]
    rw [hl, progress_latched]
    by_cases hlive : a.live = true
    · rw [if_pos hlive, if_pos hlive]
      rfl
    · rw [if_neg hlive, if_neg hlive]

/-! ### What the access performed does to the head channel (R108, R128) -/

@[simp] theorem endSegment_head (g : Segment) (s : State) : (endSegment g s).head = s.head := by
  unfold endSegment
  split
  · simp
  · rfl
@[simp] theorem setCurrent_head (g : Segment) (fifo : List Byte) (s : State) : (setCurrent g fifo s).head = s.head := by
  unfold setCurrent
  dsimp only
  split
  · simp
  · rfl
@[simp] theorem land_head (s : State) (a : Access) : (s.land a).head = s.head := by
  unfold State.land
  split <;> rfl

/-- The access performed leaves the head channel, but for a byte that it fetches. -/
theorem perform_head (s : State) :
    (perform s).head = s.head ∨ ∃ line v, s.head.mode = .inFlight .fetch line ∧
      (∃ a, s.arbiter.inProgress = some a ∧ a.live = true ∧ a.client = .fetch) ∧
      (perform s).head = { s.head with mode := .inFlight .fetch { line with bytes := line.bytes ++ [v] } } := by
  cases ha : s.arbiter.inProgress with
  | none => exact .inl (by simp [perform, ha])
  | some a =>
    by_cases hl : a.live = true
    swap
    · left
      simp [perform, ha, hl]
    simp only [perform, ha, hl, if_true]
    cases hc : a.client with
    | fetch =>
      cases hm : s.head.mode with
      | inFlight phase line =>
        cases phase with
        | fetch => exact .inr ⟨line, s.mem.read a.addr, rfl, ⟨a, rfl, hl, hc⟩, by simp [progress, hm]⟩
        | _ => exact .inl (by simp [progress, hm])
      | _ => exact .inl (by simp [progress, hm])
    | rotating k =>
      left
      cases k with
      | renderer =>
        unfold progress
        dsimp only
        split <;> simp
      | upload =>
        unfold progress
        dsimp only
        split
        · split <;> simp [storePerformed, prefetchPerformed]
        · simp
      | port =>
        unfold progress
        dsimp only
        split
        · simp
        · split <;> simp

/-- A fetch goes on as a fetch when an access is performed. -/
theorem perform_fetch {s : State} {line : Line} (hm : s.head.mode = .inFlight .fetch line) :
    ∃ line', (perform s).head.mode = .inFlight .fetch line' := by
  rcases perform_head s with h | ⟨line', v, -, -, h⟩
  · exact ⟨line, by rw [h, hm]⟩
  · exact ⟨_, by rw [h]⟩

@[simp] theorem endSegment_phase (g : Segment) (s : State) : (endSegment g s).phase = s.phase := by
  unfold endSegment
  split
  · exact (post_labelOnly _ s).phase
  · rfl
@[simp] theorem setCurrent_phase (g : Segment) (fifo : List Byte) (s : State) :
    (setCurrent g fifo s).phase = s.phase := by
  unfold setCurrent
  dsimp only
  split
  · simp
  · rfl
@[simp] theorem land_phase (s : State) (a : Access) : (s.land a).phase = s.phase := by
  unfold State.land
  split <;> rfl

/-- An operation that moves on leaves the phase, but for the clear that goes on to the next address (R133). -/
theorem progress_phase (c : Client) (v : Byte) (s : State) :
    (progress c v s).phase = s.phase ∨ ∃ a, s.phase = .clearing a ∧ (progress c v s).phase = .clearing (a + 1) := by
  cases c with
  | fetch =>
    left
    unfold progress
    dsimp only
    split <;> rfl
  | rotating k =>
    cases k with
    | renderer =>
      left
      unfold progress
      dsimp only
      split <;> rfl
    | upload =>
      left
      unfold progress
      dsimp only
      split
      · split <;> simp [storePerformed, prefetchPerformed]
      · rfl
    | port =>
      unfold progress
      dsimp only
      split
      · rename_i a ha
        exact .inr ⟨a, ha, rfl⟩
      · left
        split <;> rfl

/-- The access performed leaves the phase, but for the clear that goes on to the next address. -/
theorem perform_phase (s : State) :
    (perform s).phase = s.phase ∨ ∃ a, s.phase = .clearing a ∧ (perform s).phase = .clearing (a + 1) := by
  unfold perform
  split
  · exact .inl rfl
  · dsimp only
    split
    · rename_i a _ _
      simpa using progress_phase a.client (s.mem.read a.addr)
        (({ s with arbiter := { s.arbiter with inProgress := none } } : State).land a)
    · exact .inl (by simp)

/-- LINE_FETCH_END with a fetch in progress and inside memory ends its line or goes on. -/
theorem endFetch_endsOrGoesOn {s : State} {line : Line} (hm : s.head.mode = .inFlight .fetch line)
    (hp : s.phase = .ready) : EndsOrGoesOn (fun s => endFetch (perform s)) s := by
  obtain ⟨line', hm'⟩ := perform_fetch hm
  have hphase : (perform s).phase = s.phase := by
    rcases perform_phase s with h | ⟨a, h, -⟩
    · exact h
    · rw [hp] at h
      cases h
  have h : EndsOrGoesOn endFetch (perform s) :=
    (lineFetched_endsOrGoesOn (line'.fetched (perform s).mem (perform s).headCfg.lineBytes) (perform s)).congr fun b => by
      simp [endFetch, State.latched, hm']
  rcases h with h | ⟨x, hx, h⟩
  · exact .inl fun b => by simpa only [perform_latched] using h b
  · exact .inr ⟨x, hx.trans hphase, fun b => by simpa only [perform_latched] using h b⟩

/-- A line that an event ends with the latch set: what follows is what its end with the latch clear and then a line step
give (R117). -/
theorem latched_event {f : State → State} {s u : State} (h : EndsOrGoesOn f s) (hp : s.phase = .ready)
    (hl : s.head.latch = true) (hu : f (s.latched false) = u) (hend : u.head.lineInFlight = false) :
    u.head.mode = u.settledMode ∧ f s = lineStepOp u ∧ (u.jobs.front = none → f s = u) := by
  subst hu
  rcases h with h | ⟨x, hx, h⟩
  · exact absurd (h false) (by simp [hend])
  · have hfalse : f (s.latched false) = settle (x.headed .idle false) := by
      rw [h, serveLatch_eq]
      rfl
    have htrue : f s = servedStep (x.headed .idle false) := by
      rw [← latched_self hl, h, serveLatch_eq]
      rfl
    have hstep : lineStepOp (settle (x.headed .idle false)) = servedStep (x.headed .idle false) :=
      lineStepOp_settle (hx.trans hp) rfl
    rw [hfalse, htrue, hstep]
    refine ⟨settle_settled rfl, rfl, fun hj => ?_⟩
    rw [settle_jobs] at hj
    simp only [servedStep, hj]

/-- The rows that end a phase of the line, with the latch set (R117). -/
theorem latched_row {s u : State} {c : Instr}
    (hc : c ∈ [Instr.lineFetchEnd, .shiftEnd, .strobePulseEnd, .hotHoldExpire]) (hp : s.phase = .ready)
    (hf : s.head.lineInFlight = true) (hl : s.head.latch = true) (hu : exec c (s.latched false) = .next u)
    (hend : u.head.lineInFlight = false) :
    u.head.mode = u.settledMode ∧ exec c s = exec .lineStep u ∧ (u.jobs.front = none → exec c s = .next u) := by
  have key : ∀ f : State → State, EndsOrGoesOn f s → exec c s = .next (f s) →
      exec c (s.latched false) = .next (f (s.latched false)) →
      u.head.mode = u.settledMode ∧ exec c s = exec .lineStep u ∧ (u.jobs.front = none → exec c s = .next u) := by
    intro f h hs hs'
    rw [hs'] at hu
    obtain ⟨hmode, hstep, hnone⟩ := latched_event h hp hl (Host.Outcome.next.inj hu) hend
    exact ⟨hmode, hs.trans (congrArg _ hstep), fun hj => hs.trans (congrArg _ (hnone hj))⟩
  simp only [List.mem_cons, List.not_mem_nil, or_false] at hc
  rcases hc with rfl | rfl | rfl | rfl
  · cases hm : s.head.mode with
    | inFlight phase line =>
      cases phase with
      | fetch =>
        have hm' : (s.latched false).head.mode = .inFlight .fetch line := hm
        have hin : (s.accessInside && decide (line.addr + s.headCfg.lineBytes ≤ Config.memSize)) = true := by
          by_contra hn
          have hn' : ((s.latched false).accessInside &&
            decide (line.addr + (s.latched false).headCfg.lineBytes ≤ Config.memSize)) ≠ true := hn
          simp [exec, execLineFetchEnd, hm', hn'] at hu
        refine key _ (endFetch_endsOrGoesOn hm hp) ?_ ?_
        · simp [exec, execLineFetchEnd, hm, hin]
        · have hin' : ((s.latched false).accessInside &&
            decide (line.addr + (s.latched false).headCfg.lineBytes ≤ Config.memSize)) = true := hin
          simp [exec, execLineFetchEnd, hm', hin']
      | _ =>
        refine key id (endsOrGoesOn_id hf) ?_ ?_ <;> simp [exec, execLineFetchEnd, hm, State.latched]
    | _ => simp [Head.lineInFlight, hm] at hf
  · exact key _ (endShift_endsOrGoesOn hf) rfl rfl
  · exact key _ (endPulse_endsOrGoesOn hf) rfl rfl
  · exact key _ (expireHold_endsOrGoesOn hf) rfl rfl

/-- With the latch clear the end of a printed line settles the head channel (R110). -/
theorem endLine_of_clear {line : Line} {s : State} (hl : s.head.latch = false) :
    endLine line s = (linePrinted line s).withMode (linePrinted line s).settledMode := by
  have hl' : (linePrinted line s).head.latch = false := by simp [hl]
  rw [endLine_eq, serveLatch_of_clear hl']
  rfl

/-- Settles O45: the three ends of a line with the latch clear, and the latch served. -/
theorem lineEndAdvancesTheJob : Obligations.LineEndAdvancesTheJob := by
  refine ⟨fun s j line b hj ha hd hl hb => ?_, fun s j line hj ha hd hl => ?_, fun s j cause line hj hc hl => ?_,
    fun s u c hc hp hf hl hu hend => latched_row hc hp hf hl hu hend⟩
  · dsimp only
    rw [endLine_of_clear hl, linePrinted_going line hj ha hd]
    have hb' : (printed line s).ring.bandAt line.band = some b := hb
    refine ⟨by simp [printed], rfl, by simp [printed, hj], by simp [printed], fun hr => ?_, fun hr => ?_⟩
    · have hrel : releaseBand line (printed line s) = printed line s := by simp [releaseBand, hb', hr]
      rw [hrel, printed_eq hj]
      rfl
    · have hrel : releaseBand line (printed line s) = look ((printed line s).setBand line.band none) := by
        simp [releaseBand, hb', hr]
      rw [hrel, printed_eq hj]
      rfl
  · have hlabel := endLine_labelOnly line s
    obtain ⟨u, hu, hfreed, hjobs⟩ := completeFront_freed { j with done := j.done + 1 } (releaseBand line (printed line s))
    obtain ⟨hjobs', hreports, hhist⟩ := completeFront_spec { j with done := j.done + 1 } (releaseBand line (printed line s))
    obtain ⟨hpl, hbands⟩ := hfreed.nothing_left hjobs
    rw [releaseBand_printed_front line hj] at hjobs' hhist hbands
    rw [releaseBand_headCfg, releaseBand_head] at hhist
    rw [releaseBand_reports] at hreports
    refine ⟨?_, ?_, hlabel.mem, hlabel.upload, ?_, ?_, ?_, ?_⟩ <;>
      rw [endLine_of_clear hl, linePrinted_last line hj ha hd.ge]
    · exact hjobs'
    · rfl
    · exact hhist
    · exact hreports
    · rw [State.withMode_placements, hu]
      exact hpl
    · rw [State.withMode_ring, hu]
      exact hbands
  · have ha : j.isAborting = true := by simp [Job.isAborting, hc]
    have hlabel := endLine_labelOnly line s
    have hfront := congrArg JobTable.front (releaseBand_printed_front line hj)
    obtain ⟨hjobs, hreports, hhist⟩ := endAbort_spec hfront hc
    have hbands := endAbort_bands hfront hc
    rw [releaseBand_printed_front line hj] at hjobs hhist hbands
    rw [releaseBand_headCfg, releaseBand_head] at hhist
    rw [releaseBand_reports] at hreports
    refine ⟨?_, ?_, hlabel.mem, hlabel.upload, ?_, ?_, ?_⟩ <;>
      rw [endLine_of_clear hl, linePrinted_aborting line hj ha]
    · exact hjobs
    · rfl
    · exact hhist
    · exact hreports
    · exact hbands

end Sys2Proof.Machine
end

section
/-! The machine right after reset meets every law. -/

namespace Sys2Proof.Machine

/-- After reset every band is FREE. -/
theorem reset_bandAt (i : Nat) : State.reset.ring.bandAt i = none := by
  match i with
  | 0 | 1 | 2 | 3 => rfl
  | _ + 4 => rfl

/-- After reset the label in work is empty, and so lawful (R5, R26, R64, R99, R101, R176). -/
theorem reset_labelLawful : State.reset.labelLawful where
  config := by decide
  port := by decide
  glyphs := by decide
  jobs := by decide
  placements := by decide
  ring := by
    refine ⟨fun i _ b hb => ?_, fun i _ k _ b hb => ?_, by decide⟩ <;>
      · rw [reset_bandAt] at hb
        cases hb
  run := by
    refine ⟨fun d _ e _ b hb => ?_, by decide⟩
    rw [reset_bandAt] at hb
    cases hb
  head := by decide
  history := by decide
  looked := by decide
  composed := by
    intro w hw
    cases hw
  proof := by decide

/-- Settles O57. -/
theorem resetIsLawful : Obligations.ResetIsLawful :=
  ⟨rfl, by decide, by decide, by decide, by decide, by decide, by decide, reset_labelLawful⟩

end Sys2Proof.Machine
end

section
/-! The renderer's accesses, one by one, lead where the rest of the composition at one go leads; and BAND_COMPLETE. -/

namespace Sys2Proof.Machine

/-! ### A run of clearing writes, and a row, unrolled by one access (R85, R87) -/

/-- The first write of a cleared run, and then the rest of it. -/
theorem clearRange_succ (m : Memory) (a n : Nat) :
    Memory.clearRange m a (n + 1) = Memory.clearRange (Memory.write m a 0x00) (a + 1) n := by
  simp only [Memory.clearRange, List.range_succ_eq_map, List.foldl_cons, List.foldl_map, Nat.add_zero]
  congr 1
  funext m i
  rw [Nat.succ_eq_add_one, show a + (i + 1) = a + 1 + i by omega]

section
variable (p : Placement) (laid : List Laid) (limit line row : Nat) (src : List Byte) (col : Nat) (m : Memory)

/-- A source byte read joins those of the row (R89). -/
theorem finishRow_source (held : Option Byte) {a : Nat} (h : (p.sources laid limit row)[src.length]? = some a) :
    finishRow p laid limit line row (src ++ [Memory.read m a]) col held m = finishRow p laid limit line row src col held m := by
  obtain ⟨hlt, ha⟩ := List.getElem?_eq_some_iff.mp h
  have hsrc : src ++ [Memory.read m a] ++
      ((p.sources laid limit row).drop (src ++ [Memory.read m a]).length).map (Memory.read m) =
      src ++ ((p.sources laid limit row).drop src.length).map (Memory.read m) := by
    rw [List.drop_eq_getElem_cons hlt, ha]
    simp
  simp only [finishRow, hsrc]

/-- With no band byte left the row is finished. -/
theorem finishRow_end (held : Option Byte) (h : p.byteCount limit ≤ col) :
    finishRow p laid limit line row src col held m = m := by
  simp [finishRow, Nat.sub_eq_zero_of_le h]

/-- A band byte read back once the source bytes are known: combined, written, and then the next one (R87). -/
theorem finishRow_write (old : Byte) (hsrc : (p.sources laid limit row).length ≤ src.length)
    (hcol : col < p.byteCount limit) :
    finishRow p laid limit line row src col (some old) m =
      finishRow p laid limit line row src (col + 1) none
        (Memory.write m (line + p.firstByte + col) (p.combineByte laid limit row src (p.firstByte + col) old)) := by
  have hdrop : ∀ m' : Memory, src ++ ((p.sources laid limit row).drop src.length).map (Memory.read m') = src := fun m' => by
    simp [List.drop_eq_nil_of_le hsrc]
  obtain ⟨n, hn⟩ : ∃ n, p.byteCount limit - col = n + 1 := ⟨p.byteCount limit - col - 1, by omega⟩
  have hn' : p.byteCount limit - (col + 1) = n := by omega
  simp only [finishRow, hdrop, hn, hn', List.range'_succ, List.foldl_cons, if_true, Option.getD_some]
  refine List.foldl_ext _ _ _ fun m' j hj => ?_
  have hne : j ≠ col := by
    have := (List.mem_range'_1.mp hj).1
    omega
  simp [hne]

/-- A band byte read, and not yet written back. -/
theorem finishRow_read (hcol : col < p.byteCount limit) :
    finishRow p laid limit line row src col (some (Memory.read m (line + p.firstByte + col))) m =
      finishRow p laid limit line row src col none m := by
  obtain ⟨n, hn⟩ : ∃ n, p.byteCount limit - col = n + 1 := ⟨p.byteCount limit - col - 1, by omega⟩
  simp only [finishRow, hn, List.range'_succ, List.foldl_cons, if_true, Option.getD_some, Option.getD_none]
  refine List.foldl_ext _ _ _ fun m' j hj => ?_
  have hne : j ≠ col := by
    have := (List.mem_range'_1.mp hj).1
    omega
  simp [hne]

end

/-- The rows of a copy are drawn one after another. -/
theorem finishRows_step (s : State) (w : Work) (p : Placement) (k : Nat) (laid : List Laid) {row : Nat} (m : Memory)
    (h : row < w.endRow p k) :
    finishRows s w p k laid row m = finishRows s w p k laid (row + 1)
      (finishRow p laid (p.limit s.headCfg.dots) (s.lineAddr w.band w.first row) (row - p.copyTop k) [] 0 none m) := by
  obtain ⟨n, hn⟩ : ∃ n, w.endRow p k - row = n + 1 := ⟨w.endRow p k - row - 1, by omega⟩
  have hn' : w.endRow p k - (row + 1) = n := by omega
  simp only [finishRows, hn, hn', List.range'_succ, List.foldl_cons]

theorem finishRows_end (s : State) (w : Work) (p : Placement) (k : Nat) (laid : List Laid) {row : Nat} (m : Memory)
    (h : w.endRow p k ≤ row) : finishRows s w p k laid row m = m := by
  simp [finishRows, Nat.sub_eq_zero_of_le h]

/-! ### The copies still to draw -/

/-- A copy still to draw has a row and a column in the band (R86). -/
def Work.drawable (w : Work) (s : State) (c : CopyRef) : Prop :=
  ∃ p ∈ findPlacement s.placements c.handle, w.firstRow p c.copy < w.endRow p c.copy ∧
    0 < p.byteCount (p.limit s.headCfg.dots) ∧ p.hasCodes = true

section
variable {w : Work} {ps : List Placement} {c : CopyRef} {rest : List CopyRef} {p : Placement}
  (h : findPlacement ps c.handle = some p)
include h

/-- A run begins with its readings (R90). -/
theorem enter_glyphs {spacing : Nat} {codes : List Byte} (hk : p.kind = .glyphs spacing codes) :
    w.enter ps (c :: rest) = { w with todo := c :: rest, cursor := .reading [] } := by
  simp [Work.enter, h, hk]

/-- An IMAGE or a BAR begins with the first row of its drawn part (R86). -/
theorem enter_other (hk : ∀ spacing codes, p.kind ≠ .glyphs spacing codes) :
    w.enter ps (c :: rest) =
      { w with todo := c :: rest, cursor := .drawing [] (w.firstRow p c.copy) [] 0 none } := by
  cases hp : p.kind with
  | glyphs spacing codes => exact absurd hp (hk spacing codes)
  | _ => simp [Work.enter, h, hp]

end

/-- A placement is a run, or it is not. -/
theorem kind_cases (p : Placement) :
    (∃ spacing codes, p.kind = .glyphs spacing codes) ∨ ∀ spacing codes, p.kind ≠ .glyphs spacing codes := by
  cases hp : p.kind with
  | glyphs spacing codes => exact .inl ⟨spacing, codes, rfl⟩
  | _ => exact .inr fun _ _ h => by cases h

/-- The work on the copies of a list keeps its band and its rows. -/
theorem enter_band (w : Work) (ps : List Placement) (todo : List CopyRef) :
    (w.enter ps todo).band = w.band ∧ (w.enter ps todo).job = w.job ∧ (w.enter ps todo).first = w.first ∧
      (w.enter ps todo).count = w.count := by
  induction todo with
  | nil => exact ⟨rfl, rfl, rfl, rfl⟩
  | cons c rest ih =>
    cases h : findPlacement ps c.handle with
    | none => simpa only [Work.enter, h] using ih
    | some p => simp [Work.enter, h]

theorem layRest_other {s : State} {p : Placement} (hk : ∀ spacing codes, p.kind ≠ .glyphs spacing codes)
    (laid : List Laid) : s.layRest p laid = laid := by
  cases hp : p.kind with
  | glyphs spacing codes => exact absurd hp (hk spacing codes)
  | _ => simp [State.layRest, hp]

theorem finishCopies_cons {s : State} {w : Work} {c : CopyRef} {p : Placement}
    (h : findPlacement s.placements c.handle = some p) (rest : List CopyRef) (m : Memory) :
    finishCopies s w (c :: rest) m =
      finishCopies s w rest (finishRows s w p c.copy (s.layRest p []) (w.firstRow p c.copy) m) := by
  simp only [finishCopies, List.foldl_cons, h]

/-- The rest of a band at the start of some copies is those copies drawn (R86). -/
theorem composeRest_enter {s : State} {w : Work} {todo : List CopyRef} (h : ∀ c ∈ todo, w.drawable s c) :
    composeRest s (w.enter s.placements todo) = finishCopies s w todo s.mem := by
  cases todo with
  | nil => rfl
  | cons c rest =>
    obtain ⟨p, hp, hrow, -, -⟩ := h c (List.mem_cons_self ..)
    rw [finishCopies_cons hp]
    rcases kind_cases p with ⟨spacing, codes, hk⟩ | hk
    · rw [enter_glyphs hp hk]
      simp only [composeRest, Work.current, Option.mem_def.mp hp, Option.map_some]
      rfl
    · rw [enter_other hp hk, layRest_other hk, finishRows_step s w p c.copy [] s.mem hrow]
      simp only [composeRest, Work.current, Option.mem_def.mp hp, Option.map_some]
      rfl

/-- The cursor at the start of copies that can be drawn is in range. -/
theorem enter_inRange {s : State} {w : Work} {todo : List CopyRef} (h : ∀ c ∈ todo, w.drawable s c) :
    (w.enter s.placements todo).inRange s := by
  cases todo with
  | nil => exact ⟨by simp [Work.enter], trivial⟩
  | cons c rest =>
    obtain ⟨p, hp, hrow, hcol, hcodes⟩ := h c (List.mem_cons_self ..)
    rcases kind_cases p with ⟨spacing, codes, hk⟩ | hk
    · rw [enter_glyphs hp hk]
      refine ⟨h, (c, p), ?_, ?_⟩
      · simp [Work.current, Option.mem_def.mp hp]
      · cases codes with
        | nil => simp [Placement.hasCodes, hk] at hcodes
        | cons code codes => simp [Placement.codeCount, hk]
    · rw [enter_other hp hk]
      refine ⟨h, (c, p), ?_, Nat.le_refl _, hrow, hcol, Nat.zero_le _⟩
      simp [Work.current, Option.mem_def.mp hp]

/-! ### One access of the renderer -/

/-- The copy at the cursor is the first of those still to draw, and its placement is found. -/
theorem current_eq_some {w : Work} {ps : List Placement} {x : CopyRef × Placement} (h : w.current ps = some x) :
    ∃ rest, w.todo = x.1 :: rest ∧ findPlacement ps x.1.handle = some x.2 := by
  cases ht : w.todo with
  | nil => simp [Work.current, ht] at h
  | cons c rest =>
    simp only [Work.current, ht, Option.map_eq_some_iff] at h
    obtain ⟨p, hp, rfl⟩ := h
    exact ⟨rest, rfl, hp⟩

/-- The renderer's work after any access stands in range again (R76). -/
theorem advance_inRange {s : State} {w : Work} (h : w.inRange s) (v : Byte) : (w.advance s v).inRange s := by
  obtain ⟨htodo, hcur⟩ := h
  cases hc : w.cursor with
  | clearing n =>
    simp only [Work.cursorInRange, hc] at hcur
    by_cases hn : n ≤ 1
    · simpa only [Work.advance, hc, hn, if_true] using enter_inRange htodo
    · simp only [Work.advance, hc, hn, if_false]
      refine ⟨htodo, ?_, ?_⟩
      · omega
      · exact Nat.le_trans (Nat.sub_le n 1) hcur.2
  | reading laid =>
    simp only [Work.advance, hc]
    exact ⟨htodo, by simpa only [Work.cursorInRange, hc] using hcur⟩
  | finished =>
    simp only [Work.advance, hc]
    exact ⟨htodo, by simp only [Work.cursorInRange, hc]⟩
  | drawing laid row src col held =>
    simp only [Work.cursorInRange, hc] at hcur
    obtain ⟨⟨c, p⟩, hx, hfirst, hlast, hcol, hsrc⟩ := hcur
    obtain ⟨rest, ht, hp⟩ := current_eq_some hx
    obtain ⟨q, hq, -, hcol0, -⟩ := htodo c (ht ▸ List.mem_cons_self ..)
    obtain rfl : p = q := Option.some.inj (hp.symm.trans hq)
    simp only [Work.advance, hc, Option.mem_def.mp hx]
    split
    · rename_i hlt
      exact ⟨htodo, (c, p), hx, hfirst, hlast, hcol, by simpa using hlt⟩
    · cases held with
      | none => exact ⟨htodo, (c, p), hx, hfirst, hlast, hcol, hsrc⟩
      | some old =>
        dsimp only
        split
        · rename_i hlt
          exact ⟨htodo, (c, p), hx, hfirst, hlast, hlt, hsrc⟩
        · split
          · rename_i hlt
            exact ⟨htodo, (c, p), hx, Nat.le_succ_of_le hfirst, hlt, hcol0, Nat.zero_le _⟩
          · exact enter_inRange fun c' hc' => htodo c' (List.mem_of_mem_tail hc')

end Sys2Proof.Machine
end

section
/-! The renderer's accesses keep the outcome of the composition (R76, R87). -/

namespace Sys2Proof.Machine

/-- Raster memory after a request has been performed (R124). -/
def Request.landed (r : Request) (m : Memory) : Memory := r.write.elim m (Memory.write m r.addr)

/-- The rest of a band from a place in a row of a copy (R87). -/
theorem composeRest_drawing {s : State} {w : Work} {c : CopyRef} {p : Placement} (hx : w.current s.placements = some (c, p))
    (m : Memory) (laid : List Laid) (row : Nat) (src : List Byte) (col : Nat) (held : Option Byte) :
    composeRest { s with mem := m } { w with cursor := .drawing laid row src col held } =
      finishCopies s w w.todo.tail (finishRows s w p c.copy laid (row + 1)
        (finishRow p laid (p.limit s.headCfg.dots) (s.lineAddr w.band w.first row) (row - p.copyTop c.copy)
          src col held m)) := by
  have hx' : ({ w with cursor := .drawing laid row src col held } : Work).current s.placements = some (c, p) := hx
  simp only [composeRest, hx']
  rfl

section
variable {s : State} {w : Work} {r : Request} (hs : s.renderer = .rendering w) (hreq : rendererRequest s = some r)
include hs hreq

/-- A renderer that clears asks for the next byte of its band (R85). -/
theorem request_clearing {n : Nat} (hc : w.cursor = .clearing (n + 1)) :
    r = ⟨s.bandAddr w.band + (w.lineBytes s - (n + 1)), some 0x00⟩ := by
  simpa [rendererRequest, hs, hc] using hreq.symm

/-- What a renderer that draws a row asks for: a source byte, a band byte, or the band byte back (R87). -/
theorem request_drawing {laid : List Laid} {row col : Nat} {src : List Byte} {held : Option Byte} {c : CopyRef}
    {p : Placement} (hc : w.cursor = .drawing laid row src col held) (hx : w.current s.placements = some (c, p)) :
    (∃ a, (p.sources laid (p.limit s.headCfg.dots) (row - p.copyTop c.copy))[src.length]? = some a ∧ r = ⟨a, none⟩) ∨
    ((p.sources laid (p.limit s.headCfg.dots) (row - p.copyTop c.copy)).length ≤ src.length ∧ held = none ∧
      r = ⟨s.lineAddr w.band w.first row + p.firstByte + col, none⟩) ∨
    ((p.sources laid (p.limit s.headCfg.dots) (row - p.copyTop c.copy)).length ≤ src.length ∧ ∃ old, held = some old ∧
      r = ⟨s.lineAddr w.band w.first row + p.firstByte + col, some (p.combineByte laid (p.limit s.headCfg.dots)
        (row - p.copyTop c.copy) src (p.firstByte + col) old)⟩) := by
  cases ha : (p.sources laid (p.limit s.headCfg.dots) (row - p.copyTop c.copy))[src.length]? with
  | some a => exact .inl ⟨a, rfl, by simpa [rendererRequest, hs, hc, hx, ha] using hreq.symm⟩
  | none =>
    have hlen := List.getElem?_eq_none_iff.mp ha
    cases held with
    | none => exact .inr (.inl ⟨hlen, rfl, by simpa [rendererRequest, hs, hc, hx, ha] using hreq.symm⟩)
    | some old => exact .inr (.inr ⟨hlen, old, rfl, by simpa [rendererRequest, hs, hc, hx, ha] using hreq.symm⟩)

/-- R87: after the renderer's next access what is left to compose gives the same memory. -/
theorem composeRest_access (hw : w.inRange s) :
    composeRest { s with mem := r.landed s.mem } (w.advance s (Memory.read s.mem r.addr)) = composeRest s w := by
  obtain ⟨htodo, hcur⟩ := hw
  cases hc : w.cursor with
  | clearing n =>
    simp only [Work.cursorInRange, hc] at hcur
    obtain ⟨k, rfl⟩ : ∃ k, n = k + 1 := ⟨n - 1, by omega⟩
    obtain rfl := request_clearing hs hreq hc
    have hrest : composeRest s w = finishCopies s w w.todo (Memory.clearRange (Memory.write s.mem
        (s.bandAddr w.band + (w.lineBytes s - (k + 1))) 0x00) (s.bandAddr w.band + (w.lineBytes s - (k + 1)) + 1) k) := by
      simp only [composeRest, hc, clearRange_succ]
    rw [hrest]
    cases k with
    | zero =>
      simp only [Work.advance, hc, Nat.le_refl, Nat.zero_add, if_true]
      exact composeRest_enter (s := { s with mem := _ }) htodo
    | succ k =>
      simp only [Work.advance, hc, show ¬ k + 1 + 1 ≤ 1 by omega, if_false, composeRest]
      rw [show s.bandAddr w.band + (w.lineBytes s - (k + 1 + 1)) + 1 = s.bandAddr w.band + (w.lineBytes s - (k + 1)) by
        omega]
      rfl
  | reading laid => simp [rendererRequest, hs, hc] at hreq
  | finished => simp [rendererRequest, hs, hc] at hreq
  | drawing laid row src col held =>
    simp only [Work.cursorInRange, hc] at hcur
    obtain ⟨⟨c, p⟩, hx, -, -, hcol, -⟩ := hcur
    have hx' : w.current s.placements = some (c, p) := hx
    have hrest : composeRest s w = finishCopies s w w.todo.tail (finishRows s w p c.copy laid (row + 1)
        (finishRow p laid (p.limit s.headCfg.dots) (s.lineAddr w.band w.first row) (row - p.copyTop c.copy)
            src col held s.mem)) := by
      simp only [composeRest, hc, hx']
    rw [hrest]
    rcases request_drawing hs hreq hc hx' with ⟨a, ha, rfl⟩ | ⟨hlen, rfl, rfl⟩ | ⟨hlen, old, rfl, rfl⟩
    · have hlt := (List.getElem?_eq_some_iff.mp ha).1
      simp only [Work.advance, hc, hx', hlt, if_true]
      refine (composeRest_drawing hx' s.mem laid row _ col held).trans ?_
      rw [finishRow_source p laid _ _ _ src col s.mem held ha]
    · simp only [Work.advance, hc, hx', Nat.not_lt.mpr hlen, if_false]
      refine (composeRest_drawing hx' s.mem laid row src col _).trans ?_
      rw [finishRow_read p laid _ _ _ src col s.mem hcol]
    · simp only [Work.advance, hc, hx', Nat.not_lt.mpr hlen, if_false]
      simp only [Request.landed, Option.elim_some]
      rw [finishRow_write p laid _ _ _ src col s.mem old hlen hcol]
      split
      · exact composeRest_drawing hx' _ laid row src (col + 1) none
      · rename_i hcol'
        rw [finishRow_end p laid _ _ _ src (col + 1) _ none (Nat.not_lt.mp hcol')]
        split
        · rename_i hrow
          rw [finishRows_step s w p c.copy laid _ hrow]
          exact composeRest_drawing hx' _ laid (row + 1) [] 0 none
        · rename_i hrow
          rw [finishRows_end s w p c.copy laid _ (Nat.not_lt.mp hrow)]
          exact composeRest_enter (s := { s with mem := _ }) fun c' hc' => htodo c' (List.mem_of_mem_tail hc')

end

end Sys2Proof.Machine
end

section
/-! The completion of a band, by the row and by the internal step, is one event (R96). -/

namespace Sys2Proof.Machine

/-! ### The completion of a band as one event (R96) -/

/-- A renderer's access keeps the band and the rows of the work. -/
theorem advance_band (w : Work) (s : State) (v : Byte) :
    (w.advance s v).band = w.band ∧ (w.advance s v).job = w.job ∧ (w.advance s v).first = w.first ∧
      (w.advance s v).count = w.count := by
  cases hc : w.cursor with
  | clearing n =>
    simp only [Work.advance, hc]
    split
    · exact enter_band ..
    · exact ⟨rfl, rfl, rfl, rfl⟩
  | drawing laid row src col held =>
    simp only [Work.advance, hc]
    cases hx : w.current s.placements with
    | none => exact ⟨rfl, rfl, rfl, rfl⟩
    | some x =>
      dsimp only
      split
      · exact ⟨rfl, rfl, rfl, rfl⟩
      · cases held with
        | none => exact ⟨rfl, rfl, rfl, rfl⟩
        | some old =>
          dsimp only
          split
          · exact ⟨rfl, rfl, rfl, rfl⟩
          · split
            · exact ⟨rfl, rfl, rfl, rfl⟩
            · exact enter_band ..
  | _ => simp [Work.advance, hc]

/-- The renderer's access performed (R128). -/
theorem perform_renderer {s : State} {w : Work} {r : Request} (hs : s.renderer = .rendering w)
    (ha : s.arbiter.inProgress = some ⟨.rotating .renderer, r.addr, r.write, true⟩) :
    perform s = { s with
      mem := r.landed s.mem
      renderer := .rendering (w.advance s (Memory.read s.mem r.addr))
      arbiter := { s.arbiter with inProgress := none } } := by
  cases hw : r.write <;>
    (simp [perform, ha, State.land, hw, progress, hs, Request.landed]; rfl)

/-- Only the band and its rows matter to the completion. -/
theorem bandDone_congr {w w' : Work} (hb : w'.band = w.band) (hj : w'.job = w.job) (hf : w'.first = w.first)
    (hc : w'.count = w.count) (s : State) : bandDone w' s = bandDone w s := by
  have hr : retiresIn w' = retiresIn w := funext fun p => by simp only [retiresIn, hj, hf, hc]
  simp only [bandDone, retiredReports, completedBand, hr, hb, hj, hf, hc]

/-- The completion of a band, in the terms of the claims (R43, R68, R96). -/
theorem bandDone_eq {s : State} {w : Work} {j : Job} (hj : s.jobs.find w.job = some j) :
    bandDone w s = settle (look
      (((s.placements.filter fun p => decide (p.job = w.job ∧ w.first ≤ p.lastRow ∧ p.lastRow < w.first + w.count) &&
          p.notify).map fun p => (⟨.retired, p.job, BitVec.ofNat 8 p.handle, 0x00, 0, 0⟩ : Report)).foldl
            (fun t r => post r t)
        { s with
          ring := { s.ring with
            bands := s.ring.bands.set w.band
              (if w.first + w.count ≤ j.done then none else some ⟨.ready, w.job, w.first, w.count⟩) }
          jobs := s.jobs.update w.job fun k => { k with rendered := w.first + w.count }
          placements := s.placements.filter fun p =>
            !decide (p.job = w.job ∧ w.first ≤ p.lastRow ∧ p.lastRow < w.first + w.count)
          renderer := .idle })) := by
  have hrecord : completedBand w s.jobs =
      if w.first + w.count ≤ j.done then none else some ⟨.ready, w.job, w.first, w.count⟩ := by
    simp only [completedBand, hj]
  simp only [bandDone, hrecord]
  rfl

theorem finishBand_eq {s : State} {w : Work} (hs : s.renderer = .rendering w) :
    finishBand s = bandDone w { s with mem := composeRest s w } := by
  simp only [finishBand, hs]

/-- The state with another arbiter. -/
def State.withArbiter (s : State) (a : Arbiter) : State := { s with arbiter := a }

/-- The renderer's own access performed, or none, leaves its composition to be finished as it stood. -/
theorem finishBand_perform {s : State} {w : Work} (hs : s.renderer = .rendering w) (k : Rotating)
    (h : s.quiet ∨ (w.inRange s ∧ ∃ r : Request, rendererRequest s = some r ∧
      s.arbiter.inProgress = some ⟨.rotating .renderer, r.addr, r.write, true⟩)) :
    finishBand ((perform s).withArbiter ⟨none, k⟩) = bandDone w { s with mem := composeRest s w, arbiter := ⟨none, k⟩ } := by
  rcases h with hq | ⟨hw, r, hreq, ha⟩
  · rw [perform_quiet hq]
    exact finishBand_eq (s := s.withArbiter _) hs
  · obtain ⟨hb, hj, hf, hc⟩ := advance_band w s (Memory.read s.mem r.addr)
    rw [perform_renderer hs ha, finishBand_eq rfl, bandDone_congr hb hj hf hc, ← composeRest_access hs hreq hw]
    rfl

/-- The rotation after the row has composed the rest of a band: it moves where an access was left (log entry 8). -/
def State.restRotation (s : State) : Rotating := if (perform s).composed then s.arbiter.rotation else .renderer

/-- The row performs what is left of the composition and completes the band (R96). -/
theorem exec_bandComplete {s : State} {w : Work} (hs : s.renderer = .rendering w) (hin : s.composeInside w = true)
    (h : s.quiet ∨ (w.inRange s ∧ ∃ r : Request, rendererRequest s = some r ∧
      s.arbiter.inProgress = some ⟨.rotating .renderer, r.addr, r.write, true⟩)) (hacc : s.accessInside = true) :
    exec .bandComplete s =
      .next (bandDone w { s with mem := composeRest s w, arbiter := ⟨none, s.restRotation⟩ }) := by
  have hserved : (perform s).restServed (!(perform s).composed) .renderer =
      (perform s).withArbiter ⟨none, s.restRotation⟩ := by
    have harb : (perform s).arbiter = { s.arbiter with inProgress := none } := by
      rcases h with hq | ⟨-, r, -, ha⟩
      · simp [perform_quiet hq, ← hq]
      · rw [perform_renderer hs ha]
    cases hc : (perform s).composed <;> simp [State.restServed, State.restRotation, State.withArbiter, hc, harb]
  have hexec : exec .bandComplete s = if s.accessInside && s.composeInside w then
      .next (finishBand ((perform s).restServed (!(perform s).composed) .renderer)) else .fault .addressOutsideMemory := by
    simp only [exec, execBandComplete, hs]
  rw [hexec, hacc, hin, Bool.and_self, if_pos rfl, hserved, finishBand_perform hs _ h]

/-! ### The internal step that performs the last access -/

theorem timers_phase (s : State) : (timers s).phase = s.phase := (timers_labelOnly s).phase

/-- Whatever is granted next, the access of the state before changes the arbiter alone. -/
theorem regrant_arbiter (s : State) : regrant s = { s with arbiter := (regrant s).arbiter } := by
  unfold regrant
  split
  · rfl
  · rcases grant_cases s with h | ⟨c, r, -, -, h⟩
    · rw [h]
    · rw [h]
      rfl

theorem dueClear_ready {s : State} (h : s.phase = .ready) : dueClear s = s := by simp [dueClear, h]

/-- A fetch with bytes to read goes on. -/
theorem dueFetch_going {s : State} (h : ∀ line, s.head.mode = .inFlight .fetch line → line.bytes.length < s.headCfg.dots / 8) :
    dueFetch s = s := by
  cases hm : s.head.mode with
  | inFlight phase line =>
    cases phase with
    | fetch => simp [dueFetch, hm, Nat.not_le.mpr (h line hm), HeadConfig.lineBytes]
    | _ => simp [dueFetch, hm]
  | _ => simp [dueFetch, hm]

/-- A PROOF copy with bytes to read goes on. -/
theorem dueProof_going {s : State} (h : ∀ c ∈ s.port.proof, c.copied.length < s.headCfg.dots / 8) : dueProof s = s := by
  cases hc : s.port.proof with
  | none => simp [dueProof, hc]
  | some c => simp [dueProof, hc, Nat.not_le.mpr (h c hc), HeadConfig.lineBytes]

/-- Settles O48: the rest of the composition is the same before and after the access in progress. -/
theorem bandCompletionIsOneEvent : Obligations.BandCompletionIsOneEvent := by
  refine ⟨fun s w j hs hin hj h => ?_, ?_⟩
  · dsimp only
    have hk : s.accessInside = true ∧
        s.restRotation = if w.cursor = .finished then s.arbiter.rotation else .renderer := by
      rcases h with hq | ⟨-, r, -, haddr, ha⟩
      · simp [State.accessInside, State.restRotation, perform_quiet hq, State.composed, hs, hq]
      · simpa [State.accessInside, State.restRotation, ha] using haddr
    have h' : s.quiet ∨ (w.inRange s ∧ ∃ r : Request, rendererRequest s = some r ∧
        s.arbiter.inProgress = some ⟨.rotating .renderer, r.addr, r.write, true⟩) :=
      h.imp_right fun ⟨hw, r, hreq, _, ha⟩ => ⟨hw, r, hreq, by rw [ha]⟩
    rw [exec_bandComplete hs hin h' hk.1, hk.2]
    exact congrArg Host.Outcome.next (bandDone_eq (s := { s with mem := _, arbiter := _ }) hj)
  · intro s w r hp hphase hread u hu hw hin hreq haddr ha hlast hfetch hproof
    have hacc : u.accessInside = true := by simpa [State.accessInside, ha] using haddr
    have h' : u.quiet ∨ (w.inRange u ∧ ∃ r : Request, rendererRequest u = some r ∧
        u.arbiter.inProgress = some ⟨.rotating .renderer, r.addr, r.write, true⟩) := .inr ⟨hw, r, hreq, ha⟩
    have hperf := perform_renderer hu ha
    have hcomp : (perform u).composed = true := by simp [hperf, State.composed, hlast]
    have hrot : u.restRotation = u.arbiter.rotation := by simp [State.restRotation, hcomp]
    have hready : u.phase = .ready := (timers_phase s).trans hphase
    have hdone : due (perform u) = bandDone w { u with mem := composeRest u w, arbiter := ⟨none, u.restRotation⟩ } := by
      have hclear : dueClear (perform u) = perform u := dueClear_ready (by rw [hperf]; exact hready)
      have hfetch' : dueFetch (perform u) = perform u := dueFetch_going (by rw [hperf]; exact hfetch)
      have hband : dueBand (perform u) = bandDone w { u with mem := composeRest u w, arbiter := ⟨none, u.restRotation⟩ } := by
        rw [← finishBand_perform hu _ h', dueBand, hcomp, if_pos rfl, hrot, hperf]
        rfl
      rw [due, hclear, hfetch', hband]
      refine dueProof_going fun c hc => ?_
      rw [(bandDone_labelOnly _ _).proof] at hc
      rw [(bandDone_labelOnly _ _).headCfg]
      exact hproof c hc
    have hgrant : grant u = u := by simp [grant, ha]
    refine ⟨regrant (due (perform u)), _, ?_, ?_, exec_bandComplete hu hin h' hacc, ?_⟩
    · simp only [step, hp, tick, hphase, hread, reduceCtorEq, if_false, Bool.false_eq_true]
      rw [show grant (timers s) = u from hgrant, hacc, if_pos rfl]
    · rw [hdone, regrant_arbiter]
      exact (bandDone_labelOnly _ _).mem
    · rw [← hdone]
      exact regrant_arbiter _

end Sys2Proof.Machine
end

section
/-! The law of the job table (R1, R2, R3, R80), operation by operation, and no row position falls. -/

namespace Sys2Proof.Machine

/-! ### The rows of a job do not fall -/

/-- The record of a job later on: its row positions have not fallen, its length and trailing rows are as they were. -/
structure Job.Advances (j k : Job) : Prop where
  tag : j.tag = k.tag
  done : j.done ≤ k.done
  rendered : j.rendered ≤ k.rendered
  commitRow : j.commitRow ≤ k.commitRow
  length : j.length = k.length
  trailing : j.trailing = k.trailing

theorem Job.Advances.refl (j : Job) : j.Advances j := ⟨rfl, Nat.le_refl _, Nat.le_refl _, Nat.le_refl _, rfl, rfl⟩

theorem Job.Advances.trans {j k l : Job} (h : j.Advances k) (g : k.Advances l) : j.Advances l :=
  ⟨h.tag.trans g.tag, h.done.trans g.done, h.rendered.trans g.rendered, h.commitRow.trans g.commitRow,
    h.length.trans g.length, h.trailing.trans g.trailing⟩

/-- A job is present (R1). -/
def JobTable.holds (t : JobTable) (j : Job) : Prop := t.front = some j ∨ t.back = some j

/-- Every job of the second table is one of the first, later on. -/
def JobTable.Onward (t u : JobTable) : Prop := ∀ k, u.holds k → ∃ j, t.holds j ∧ j.Advances k

theorem JobTable.Onward.refl (t : JobTable) : t.Onward t := fun k hk => ⟨k, hk, .refl k⟩

theorem JobTable.Onward.trans {t u v : JobTable} (h : t.Onward u) (g : u.Onward v) : t.Onward v := by
  intro l hl
  obtain ⟨k, hk, hkl⟩ := g l hl
  obtain ⟨j, hj, hjk⟩ := h k hk
  exact ⟨j, hj, hjk.trans hkl⟩

/-- The front job leaves. -/
theorem JobTable.Onward.leave (t : JobTable) : t.Onward ⟨t.back, none⟩ := by
  rintro k (hk | hk)
  · exact ⟨k, .inr hk, .refl k⟩
  · cases hk

/-- The back job leaves. -/
theorem JobTable.Onward.backLeaves (t : JobTable) : t.Onward ⟨t.front, none⟩ := by
  rintro k (hk | hk)
  · exact ⟨k, .inl hk, .refl k⟩
  · cases hk

theorem JobTable.Onward.empty (t : JobTable) : t.Onward ⟨none, none⟩ := by
  rintro k (hk | hk) <;> cases hk

/-- The front job goes on. -/
theorem JobTable.Onward.front {t : JobTable} {f : Job → Job} (h : ∀ j ∈ t.front, j.Advances (f j)) :
    t.Onward { t with front := t.front.map f } := by
  rintro k (hk | hk)
  · obtain ⟨j, hj, rfl⟩ := Option.map_eq_some_iff.mp hk
    exact ⟨j, .inl hj, h j hj⟩
  · exact ⟨k, .inr hk, .refl k⟩

/-- The job of a tag goes on. -/
theorem JobTable.Onward.update {t : JobTable} {tag : Byte} {f : Job → Job}
    (h : ∀ j, t.holds j → j.tag = tag → j.Advances (f j)) : t.Onward (t.update tag f) := by
  have key : ∀ j, t.holds j → j.Advances (j.updateIf tag f) := by
    intro j hj
    unfold Job.updateIf
    split
    · rename_i ht
      exact h j hj ht
    · exact .refl j
  rintro k (hk | hk) <;> obtain ⟨j, hj, rfl⟩ := Option.map_eq_some_iff.mp hk
  · exact ⟨j, .inl hj, key j (.inl hj)⟩
  · exact ⟨j, .inr hj, key j (.inr hj)⟩

theorem JobTable.Onward.of_eq {t u : JobTable} (h : u = t) : t.Onward u := h ▸ .refl t

theorem completeFront_onward (j : Job) (s : State) : s.jobs.Onward (completeFront j s).jobs := by
  rw [(completeFront_spec j s).1]
  exact .leave _

theorem completeIfDone_onward (s : State) : s.jobs.Onward (completeIfDone s).jobs := by
  rcases completeIfDone_cases s with h | ⟨j, -, -, -, h⟩ <;> rw [h]
  · exact .refl _
  · exact completeFront_onward j s

theorem abortFrontAtOnce_onward (j : Job) (cause : AbortCause) (s : State) : s.jobs.Onward (abortFrontAtOnce j cause s).jobs := by
  rw [(abortFrontAtOnce_spec j cause s).1]
  exact .leave _

theorem abortBack_onward (j : Job) (s : State) : s.jobs.Onward (abortBack j s).jobs := by
  rw [(abortBack_spec j s).1]
  exact .backLeaves _

theorem advances_abort (cause : AbortCause) (j : Job) : j.Advances (j.abort cause) := by
  unfold Job.abort
  split
  · exact .refl j
  · exact ⟨rfl, Nat.le_refl _, Nat.le_refl _, Nat.le_refl _, rfl, rfl⟩

/-- What an abort with a line in flight leaves of the job table (R18, R20). -/
theorem abortInFlight_jobs (cause : AbortCause) (s : State) :
    (abortInFlight cause s).jobs = { s.jobs with front := s.jobs.front.map (Job.abort cause) } := by
  cases hj : s.jobs.front with
  | none =>
    simp only [abortInFlight, hj, Option.map_none]
    rw [← hj]
  | some j =>
    cases ha : j.isAborting with
    | false => simp [abortInFlight, hj, ha]
    | true =>
      rw [abortInFlight_aborting hj ha]
      simp only [Option.map_some, Job.abort, ha, if_true]
      rw [← hj]

theorem abortInFlight_onward (cause : AbortCause) (s : State) : s.jobs.Onward (abortInFlight cause s).jobs := by
  rw [abortInFlight_jobs]
  exact .front fun j _ => advances_abort cause j

theorem endAbort_onward (s : State) : s.jobs.Onward (endAbort s).jobs := by
  unfold endAbort
  split
  · split
    · refine (JobTable.Onward.leave s.jobs).trans (.of_eq ?_)
      simp
    · exact .refl _
  · exact .refl _

theorem advanceDone_onward (s : State) : s.jobs.Onward s.advanceDone.jobs :=
  .front fun _ _ => ⟨rfl, Nat.le_succ _, Nat.le_refl _, Nat.le_refl _, rfl, rfl⟩

theorem advanceBlank_onward (s : State) : s.jobs.Onward s.advanceBlank.jobs :=
  .front fun _ _ => ⟨rfl, Nat.le_succ _, Nat.le_refl _, Nat.le_refl _, rfl, rfl⟩

theorem trailingStep_onward (s : State) : s.jobs.Onward (trailingStep s).jobs :=
  ((advanceDone_onward s).trans (completeIfDone_onward s.clearHistory.advanceDone)).trans (.of_eq (settle_jobs _))

theorem startLine_jobs (j : Job) (i : Nat) (s : State) : (startLine j i s).jobs = s.jobs := by
  unfold startLine
  split <;> rfl

theorem underrunStep_onward (j : Job) (s : State) : s.jobs.Onward (underrunStep j s).jobs := by
  unfold underrunStep
  cases j.policy with
  | blank =>
    refine ((advanceBlank_onward s).trans ?_).trans (.of_eq (settle_jobs _))
    have h := completeIfDone_onward (post (reportUnderrun j.tag j.done) s.clearHistory.advanceBlank)
    rwa [post_jobs] at h
  | abort => exact (abortFrontAtOnce_onward j .underrun s).trans (.of_eq (settle_jobs _))

theorem armedStep_onward (j : Job) (s : State) : s.jobs.Onward (armedStep j s).jobs := by
  unfold armedStep
  split
  · exact trailingStep_onward s
  · cases s.ring.bandHolding j.tag j.done with
    | none => exact underrunStep_onward j s
    | some i => exact .of_eq (startLine_jobs j i s)

theorem servedStep_onward (s : State) : s.jobs.Onward (servedStep s).jobs := by
  unfold servedStep
  cases s.jobs.front with
  | none => exact .of_eq (settle_jobs s)
  | some j =>
    dsimp only
    split
    · exact armedStep_onward j s
    · exact underrunStep_onward j s

theorem serveLatch_onward (s : State) : s.jobs.Onward (serveLatch s).jobs := by
  rw [serveLatch_eq]
  split
  · exact servedStep_onward (s.headed .idle false)
  · exact .of_eq (settle_jobs _)

theorem endAbortOrComplete_onward (s : State) : s.jobs.Onward (endAbortOrComplete s).jobs := by
  unfold endAbortOrComplete
  cases s.jobs.front with
  | none => exact .refl _
  | some j =>
    dsimp only
    split
    · exact endAbort_onward s
    · exact completeIfDone_onward s

theorem endLine_onward (line : Line) (s : State) : s.jobs.Onward (endLine line s).jobs := by
  rw [endLine_eq]
  have h := endAbortOrComplete_onward (releaseBand line (printed line s))
  rw [releaseBand_jobs] at h
  exact ((advanceDone_onward s).trans h).trans (serveLatch_onward (linePrinted line s))

theorem abandonLine_onward (s : State) : s.jobs.Onward (abandonLine s).jobs :=
  (endAbort_onward s).trans (serveLatch_onward ((endAbort s).orphan .fetch))

theorem startPulse_jobs (p : Pass) (line : Line) (s : State) : (startPulse p line s).jobs = s.jobs := by
  unfold startPulse markStarted
  split <;> simp

theorem takeUpGroup_onward (p : Pass) (k : Nat) (line : Line) (s : State) : s.jobs.Onward (takeUpGroup p k line s).jobs := by
  unfold takeUpGroup
  cases nextGroup s.headCfg (line.passBytes p) k with
  | some g =>
    dsimp only
    split
    · exact .refl _
    · exact .of_eq (startPulse_jobs _ _ s)
  | none =>
    cases p with
    | pre => exact .refl _
    | main => exact endLine_onward line s

theorem lineFetched_onward (line : Line) (s : State) : s.jobs.Onward (lineFetched line s).jobs := by
  unfold lineFetched
  split
  · dsimp only
    split <;> exact .refl _
  · exact endLine_onward line s

end Sys2Proof.Machine
end

section
/-! The job table in the middle of an event, and what its changes keep (R1, R2, R3). -/

namespace Sys2Proof.Machine

/-! ### The job table in the middle of an event -/

/-- The record of a job in the middle of an event: the ranges of R2 and the bounds of R3, but for the done row, which may
have reached the total. -/
structure Job.Bounded (j : Job) : Prop where
  length_pos : 1 ≤ j.length
  length_le : j.length ≤ 65535
  trailing : j.trailing ≤ 4095
  commitRow : j.commitRow ≤ j.length
  rendered : j.rendered ≤ j.length
  blankRows : j.blankRows ≤ j.done
  closed : j.state = .closed → j.commitRow = j.length

/-- The table in the middle of an event (R1): the law of the job table, with a front job that may have to leave. -/
structure JobTable.InEvent (t : JobTable) : Prop where
  filled : t.front = none → t.back = none
  front : ∀ j ∈ t.front, j.Bounded
  back : ∀ k ∈ t.back, k.Bounded ∧ k.isAborting = false ∧ k.done = 0 ∧ k.blankRows = 0
  apart : ∀ j ∈ t.front, ∀ k ∈ t.back, j.tag ≠ k.tag ∧ j.state ≠ .opened

/-- The front job goes on with no line of it in flight: it is not ABORTING and has rows to consume (R13, R18). -/
def JobTable.Standing (t : JobTable) : Prop := ∀ j ∈ t.front, j.isAborting = false ∧ j.done < j.length + j.trailing

/-- The front job may stay: it has rows to consume, and is ABORTING only with a line in flight. -/
def State.frontStays (s : State) : Prop :=
  ∀ j ∈ s.jobs.front, j.done < j.length + j.trailing ∧ (j.isAborting = true → s.head.lineInFlight = true)

theorem Job.lawful_iff (j : Job) : j.lawful ↔ j.Bounded ∧ j.done < j.length + j.trailing :=
  ⟨fun ⟨h1, h2, h3, h4, h5, h6, h7, h8⟩ => ⟨⟨h1, h2, h3, h4, h5, h7, h8⟩, h6⟩,
    fun ⟨h, h6⟩ => ⟨h.length_pos, h.length_le, h.trailing, h.commitRow, h.rendered, h6, h.blankRows, h.closed⟩⟩

/-- The law of the job table is the law in the middle of an event, with a front job that may stay. -/
theorem jobsLawful_iff (s : State) : s.jobsLawful ↔ s.jobs.InEvent ∧ s.frontStays ∧ s.workLawful := by
  constructor
  · rintro ⟨hfill, hfront, hback, hwork⟩
    refine ⟨⟨hfill, fun j hj => ((Job.lawful_iff j).mp (hfront j hj).1).1, fun k hk => ?_, fun j hj k hk => ?_⟩,
      fun j hj => ⟨((Job.lawful_iff j).mp (hfront j hj).1).2, (hfront j hj).2⟩, hwork⟩
    · obtain ⟨hl, ha, hd, hb, -⟩ := hback k hk
      exact ⟨((Job.lawful_iff k).mp hl).1, ha, hd, hb⟩
    · exact (hback k hk).2.2.2.2 j hj
  · rintro ⟨h, hstay, hwork⟩
    refine ⟨h.filled, fun j hj => ⟨(Job.lawful_iff j).mpr ⟨h.front j hj, (hstay j hj).1⟩, (hstay j hj).2⟩,
      fun k hk => ?_, hwork⟩
    obtain ⟨hl, ha, hd, hb⟩ := h.back k hk
    refine ⟨(Job.lawful_iff k).mpr ⟨hl, ?_⟩, ha, hd, hb, fun j hj => h.apart j hj k hk⟩
    have := hl.length_pos
    omega

/-- A front job that stands may stay. -/
theorem JobTable.Standing.stays {s : State} (h : s.jobs.Standing) : s.frontStays :=
  fun j hj => ⟨(h j hj).2, fun ha => by simp [(h j hj).1] at ha⟩

/-- With no line in flight a front job that may stay stands. -/
theorem State.frontStays.standing {s : State} (h : s.frontStays) (hl : s.head.lineInFlight = false) : s.jobs.Standing := by
  intro j hj
  obtain ⟨hd, ha⟩ := h j hj
  refine ⟨?_, hd⟩
  by_contra hn
  rw [Bool.not_eq_false] at hn
  simp [ha hn] at hl

/-- The front job stays under a change that keeps it, and a line in flight. -/
theorem State.frontStays.congr {s t : State} (h : s.frontStays) (hj : t.jobs.front = s.jobs.front)
    (hl : s.head.lineInFlight = true → t.head.lineInFlight = true) : t.frontStays :=
  fun j hj' => ⟨(h j (hj ▸ hj')).1, fun ha => hl ((h j (hj ▸ hj')).2 ha)⟩

namespace JobTable.InEvent
variable {t : JobTable} (h : t.InEvent)
include h

/-- A job present is the job of its tag. -/
theorem find_of_holds {j : Job} (hj : t.holds j) : t.find j.tag = some j := by
  rcases hj with hj | hj
  · exact find_front hj
  · exact find_back hj fun k hk => (h.apart k hk j hj).1

/-- The job of a tag is a job present. -/
theorem bounded {j : Job} (hj : t.holds j) : j.Bounded := by
  rcases hj with hj | hj
  · exact h.front j hj
  · exact (h.back j hj).1

/-- The front job leaves, and the back job in front stands. -/
theorem leave : (JobTable.mk t.back none).InEvent ∧ (JobTable.mk t.back none).Standing := by
  refine ⟨⟨fun _ => rfl, fun j hj => (h.back j hj).1, fun _ hk => (by cases hk), fun _ _ _ hk => (by cases hk)⟩, fun j hj => ?_⟩
  obtain ⟨hb, ha, hd, -⟩ := h.back j hj
  have := hb.length_pos
  exact ⟨ha, by omega⟩

/-- The back job leaves. -/
theorem backLeaves : (JobTable.mk t.front none).InEvent :=
  ⟨fun _ => rfl, h.front, fun _ hk => (by cases hk), fun _ _ _ hk => (by cases hk)⟩

/-- The front job's record changes, and it stays bounded and beside the back job. -/
theorem mapFront {f : Job → Job} (hf : ∀ j ∈ t.front, (f j).Bounded ∧ (f j).tag = j.tag ∧ ((f j).state = .opened → j.state = .opened)) :
    ({ t with front := t.front.map f } : JobTable).InEvent := by
  refine ⟨fun hn => h.filled (by simpa using hn), fun j hj => ?_, h.back, fun j hj k hk => ?_⟩
  · obtain ⟨i, hi, rfl⟩ := Option.map_eq_some_iff.mp hj
    exact (hf i hi).1
  · obtain ⟨i, hi, rfl⟩ := Option.map_eq_some_iff.mp hj
    obtain ⟨htag, hstate⟩ := h.apart i hi k hk
    exact ⟨by rw [(hf i hi).2.1]; exact htag, fun ho => hstate ((hf i hi).2.2 ho)⟩

/-- A row consumed keeps the table in the middle of an event. -/
theorem advance {f : Job → Job} (b : Nat) (hb : b ≤ 1)
    (hf : ∀ j, f j = { j with done := j.done + 1, blankRows := j.blankRows + b }) :
    ({ t with front := t.front.map f } : JobTable).InEvent := by
  refine h.mapFront fun j hj => ?_
  rw [hf]
  have hj' := h.front j hj
  refine ⟨⟨hj'.length_pos, hj'.length_le, hj'.trailing, hj'.commitRow, hj'.rendered, ?_, hj'.closed⟩, rfl, id⟩
  exact Nat.add_le_add hj'.blankRows hb

/-- The front job enters ABORTING. -/
theorem abort (cause : AbortCause) : ({ t with front := t.front.map (Job.abort cause) } : JobTable).InEvent := by
  refine h.mapFront fun j hj => ?_
  have hj' := h.front j hj
  unfold Job.abort
  split
  · exact ⟨hj', rfl, id⟩
  · exact ⟨⟨hj'.length_pos, hj'.length_le, hj'.trailing, hj'.commitRow, hj'.rendered, hj'.blankRows,
      fun hc => (by cases hc)⟩, rfl, fun ho => (by cases ho)⟩

/-- The record of the job of a tag changes, in its state, its commit row or its rendered row. -/
theorem update {tag : Byte} {f : Job → Job}
    (hf : ∀ j, t.holds j → j.tag = tag → (f j).Bounded ∧ (f j).tag = j.tag ∧ (f j).done = j.done ∧
      (f j).blankRows = j.blankRows ∧ (f j).isAborting = j.isAborting ∧ ((f j).state = .opened → j.state = .opened)) :
    (t.update tag f).InEvent := by
  have key : ∀ j, t.holds j → (j.updateIf tag f).Bounded ∧ (j.updateIf tag f).tag = j.tag ∧
      (j.updateIf tag f).done = j.done ∧ (j.updateIf tag f).blankRows = j.blankRows ∧
      (j.updateIf tag f).isAborting = j.isAborting ∧ ((j.updateIf tag f).state = .opened → j.state = .opened) := by
    intro j hj
    unfold Job.updateIf
    split
    · rename_i ht
      exact hf j hj ht
    · exact ⟨h.bounded hj, rfl, rfl, rfl, rfl, id⟩
  refine ⟨fun hn => ?_, fun j hj => ?_, fun k hk => ?_, fun j hj k hk => ?_⟩
  · simp only [JobTable.update, Option.map_eq_none_iff] at hn ⊢
    exact h.filled hn
  · obtain ⟨i, hi, rfl⟩ := Option.map_eq_some_iff.mp hj
    exact (key i (.inl hi)).1
  · obtain ⟨i, hi, rfl⟩ := Option.map_eq_some_iff.mp hk
    obtain ⟨hb, -, hd, hbl, ha, -⟩ := key i (.inr hi)
    obtain ⟨-, ha', hd', hbl'⟩ := h.back i hi
    exact ⟨hb, ha.trans ha', hd.trans hd', hbl.trans hbl'⟩
  · obtain ⟨i, hi, rfl⟩ := Option.map_eq_some_iff.mp hj
    obtain ⟨l, hl, rfl⟩ := Option.map_eq_some_iff.mp hk
    obtain ⟨-, hti, -, -, -, hsi⟩ := key i (.inl hi)
    obtain ⟨-, htl, -⟩ := key l (.inr hl)
    obtain ⟨htag, hstate⟩ := h.apart i hi l hl
    exact ⟨by rw [hti, htl]; exact htag, fun ho => hstate (hsi ho)⟩

end JobTable.InEvent

theorem holds_of_find {t : JobTable} {tag : Byte} {j : Job} (h : t.find tag = some j) : t.holds j := by
  rcases find_eq_some.mp h with ⟨h, -⟩ | ⟨-, h, -⟩
  · exact .inl h
  · exact .inr h

/-- The job of a tag after a change of the job of a tag. -/
theorem find_update {t : JobTable} {tag : Byte} {f : Job → Job} (hf : ∀ j, t.holds j → j.tag = tag → (f j).tag = j.tag)
    (a : Byte) : (t.update tag f).find a = (t.find a).map (Job.updateIf tag f) := by
  have key : ∀ j, t.holds j → (j.updateIf tag f).tag = j.tag := by
    intro j hj
    unfold Job.updateIf
    split
    · rename_i ht
      exact hf j hj ht
    · rfl
  obtain ⟨front, back⟩ := t
  have hback : ∀ k, back = some k → (k.updateIf tag f).tag = k.tag := fun k hk => key k (.inr hk)
  have hmap : (back.map (Job.updateIf tag f)).filter (fun k => decide (k.tag = a)) =
      (back.filter fun k => decide (k.tag = a)).map (Job.updateIf tag f) := by
    cases back with
    | none => rfl
    | some k =>
      simp only [Option.map_some, Option.filter_some, hback k rfl]
      split <;> rfl
  cases front with
  | none => exact hmap
  | some j =>
    have hj : (j.updateIf tag f).tag = j.tag := key j (.inl rfl)
    by_cases h : j.tag = a
    · simp [JobTable.update, JobTable.find, hj, h]
    · simpa [JobTable.update, JobTable.find, hj, h] using hmap

/-- The job of a tag after a change of the front job. -/
theorem find_mapFront {t : JobTable} {f : Job → Job} (hf : ∀ j ∈ t.front, (f j).tag = j.tag) (a : Byte) :
    ({ t with front := t.front.map f } : JobTable).find a = if t.isFront a then (t.find a).map f else t.find a := by
  obtain ⟨front, back⟩ := t
  cases front with
  | none => simp [JobTable.find, JobTable.isFront]
  | some j =>
    have hj : (f j).tag = j.tag := hf j rfl
    by_cases h : j.tag = a <;> simp [JobTable.find, JobTable.isFront, hj, h]

end Sys2Proof.Machine
end

section
/-! The band in work, and what completions and aborts keep of the law of the job table (R13 to R21, R79, R80, R94). -/

namespace Sys2Proof.Machine

/-! ### The band in work in the middle of an event (R79, R80, R94) -/

/-- The law of the job table and of the band in work, in the middle of an event. -/
structure State.JobsMid (s : State) : Prop where
  table : s.jobs.InEvent
  work : s.workLawful

/-- The second record allows the work that the first does. -/
structure Job.WorksAs (j k : Job) : Prop where
  aborting : j.isAborting = false → k.isAborting = false
  rendered : k.rendered = j.rendered
  length : k.length = j.length
  commitRow : j.commitRow ≤ k.commitRow
  opened : k.state = .opened → j.state = .opened

theorem Job.WorksAs.refl (j : Job) : j.WorksAs j := ⟨id, rfl, rfl, Nat.le_refl _, id⟩

/-- The band in work stays lawful when its place stays and its job allows it still. -/
theorem workLawful_of {s t : State} (h : s.workLawful) (hh : t.ring.h = s.ring.h)
    (hw : ∀ w' ∈ t.renderer.work, ∃ w ∈ s.renderer.work, w'.job = w.job ∧ w'.first = w.first ∧ w'.count = w.count ∧
      ∀ j ∈ s.jobs.find w.job, ∃ k ∈ t.jobs.find w.job, j.WorksAs k) : t.workLawful := by
  intro w' hw'
  obtain ⟨w, hmem, hj, hf, hc, hjob⟩ := hw w' hw'
  obtain ⟨j, hj', ha, hfirst, hlt, hcount, hopen⟩ := h w hmem
  obtain ⟨k, hk, hjk⟩ := hjob j hj'
  refine ⟨k, by rw [hj]; exact hk, hjk.aborting ha, ?_, ?_, ?_, fun ho => ?_⟩
  · rw [hf, hfirst, hjk.rendered]
  · rw [hjk.rendered, hjk.length]
    exact hlt
  · rw [hc, hcount, hh, hjk.rendered, hjk.length]
  · rw [hf, hc]
    exact (hopen (hjk.opened ho)).trans hjk.commitRow

/-- The band in work stays lawful when jobs, band and rows stay. -/
theorem workLawful_congr {s t : State} (h : s.workLawful) (hh : t.ring.h = s.ring.h) (hj : t.jobs = s.jobs)
    (hw : t.renderer.work = s.renderer.work) : t.workLawful :=
  workLawful_of h hh fun w hmem => ⟨w, hw ▸ hmem, rfl, rfl, rfl, fun j hj' => ⟨j, hj ▸ hj', .refl j⟩⟩

theorem workLawful_of_none {s : State} (h : s.renderer.work = none) : s.workLawful := by
  intro w hw
  rw [h] at hw
  cases hw

theorem State.JobsMid.congr {s t : State} (h : s.JobsMid) (hh : t.ring.h = s.ring.h) (hj : t.jobs = s.jobs)
    (hw : t.renderer.work = s.renderer.work) : t.JobsMid :=
  ⟨hj ▸ h.table, workLawful_congr h.work hh hj hw⟩

theorem jobsLawful_iff_mid (s : State) : s.jobsLawful ↔ s.JobsMid ∧ s.frontStays := by
  rw [jobsLawful_iff]
  exact ⟨fun ⟨h, hs, hw⟩ => ⟨⟨h, hw⟩, hs⟩, fun ⟨⟨h, hw⟩, hs⟩ => ⟨h, hs, hw⟩⟩

/-- The job to render next is a job present, not ABORTING (R79). -/
theorem toRender_holds {t : JobTable} (h : t.InEvent) {j : Job} (hj : t.toRender = some j) :
    t.holds j ∧ j.isAborting = false ∧ j.rendered < j.length := by
  obtain ⟨hlt, ⟨hf, ha⟩ | ⟨hb, -⟩⟩ := toRender_eq_some hj
  · exact ⟨.inl hf, ha, hlt⟩
  · exact ⟨.inr hb, (h.back j hb).2.1, hlt⟩

@[simp] theorem look_h (s : State) : (look s).ring.h = s.ring.h := by
  rcases look_cases s with ⟨h, -⟩ | ⟨r, -, h⟩ | ⟨j, -, -, -, -, h⟩ <;> simp [h]

/-- A look keeps the law: a band is claimed for a job present, at its rendered row, and within the commit row of an OPEN
job (R79, R80). -/
theorem look_mid {s : State} (h : s.JobsMid) : (look s).JobsMid := by
  refine ⟨by rw [look_jobs]; exact h.table, ?_⟩
  rcases look_cases s with ⟨e, -⟩ | ⟨r, hr, e⟩ | ⟨j, -, hj, hcommit, -, e⟩
  · rw [e]
    exact h.work
  · exact workLawful_of_none (by rw [e]; exact hr)
  · rw [e]
    intro w hw
    obtain ⟨hholds, ha, hlt⟩ := toRender_holds h.table hj
    obtain rfl := Option.some.inj hw
    refine ⟨j, h.table.find_of_holds hholds, ha, rfl, hlt, rfl, fun ho => ?_⟩
    simpa [commitAllows, Job.isOpen, ho] using hcommit

theorem mem_work_abandoning {r : Renderer} {tag : Byte} {w : Work} :
    w ∈ (r.abandoning tag).work ↔ w ∈ r.work ∧ w.job ≠ tag := by
  cases r with
  | rendering v =>
    by_cases hv : v.job = tag
    · simp only [Renderer.abandoning, hv, if_true, Renderer.work, Option.mem_def, Option.some.injEq]
      constructor
      · intro h
        cases h
      · rintro ⟨rfl, hn⟩
        exact absurd hv hn
    · simp only [Renderer.abandoning, hv, if_false, Renderer.work, Option.mem_def, Option.some.injEq]
      constructor
      · rintro rfl
        exact ⟨rfl, hv⟩
      · exact fun h => h.1
  | _ => simp [Renderer.abandoning, Renderer.work]

/-- The band in work stays lawful when a job is freed and the others stay. -/
theorem JobFreed.workLawful {tag : Byte} {keep : Bool} {s u : State} (hf : JobFreed tag keep s u) (h : s.workLawful)
    (hfind : ∀ a ≠ tag, u.jobs.find a = s.jobs.find a) : u.workLawful := by
  refine workLawful_of h hf.h fun w hw => ?_
  rw [hf.renderer] at hw
  obtain ⟨hw, hne⟩ := mem_work_abandoning.mp hw
  refine ⟨w, hw, rfl, rfl, rfl, fun j hj => ⟨j, ?_, .refl j⟩⟩
  rw [hfind w.job hne]
  exact hj

/-- The other jobs stay when the front job leaves. -/
theorem find_leave {t : JobTable} {j : Job} (hj : t.front = some j) {a : Byte} (ha : a ≠ j.tag) :
    (JobTable.mk t.back none).find a = t.find a := by
  obtain ⟨front, back⟩ := t
  obtain rfl : front = some j := hj
  cases back with
  | none => simp [JobTable.find, Ne.symm ha]
  | some k =>
    by_cases hk : k.tag = a <;> simp [JobTable.find, Ne.symm ha, hk, Option.filter]

/-- The other jobs stay when the back job leaves. -/
theorem find_backLeaves {t : JobTable} {k : Job} (hk : t.back = some k) {a : Byte} (ha : a ≠ k.tag) :
    (JobTable.mk t.front none).find a = t.find a := by
  obtain ⟨front, back⟩ := t
  obtain rfl : back = some k := hk
  cases front <;> simp [JobTable.find, Ne.symm ha, Option.filter]

/-- The other jobs stay when the front job is aborted. -/
theorem find_abort {t : JobTable} (cause : AbortCause) {a : Byte} (ha : t.isFront a = false) :
    ({ t with front := t.front.map (Job.abort cause) } : JobTable).find a = t.find a := by
  rw [find_mapFront (fun j _ => (advances_abort cause j).tag.symm), ha]
  rfl

/-! ### Completion and abort keep the law (R13 to R21) -/

/-- After the end of an abort the back job is in front, and the renderer looks (R19). -/
theorem endAbort_leaves {s : State} {j : Job} (hj : s.jobs.front = some j) (ha : j.isAborting = true) :
    ∃ u, endAbort s = look u ∧ u.jobs = ⟨s.jobs.back, none⟩ ∧ u.renderer = s.renderer ∧ u.ring.h = s.ring.h := by
  cases hc : j.state with
  | aborting cause =>
    rw [endAbort_aborting hj hc]
    exact ⟨_, rfl, by simp, by simp, by simp [Ring.freeBands]⟩
  | _ => simp [Job.isAborting, hc] at ha

section
variable {s : State} (h : s.JobsMid)
include h

/-- The front job freed and gone, and the renderer has looked. -/
theorem look_freed_mid {u : State} {j k : Job} (hj : s.jobs.front = some j) (htag : k.tag = j.tag)
    (hf : JobFreed k.tag false s u) (hu : u.jobs = ⟨s.jobs.back, none⟩) : (look u).JobsMid ∧ (look u).jobs.Standing := by
  obtain ⟨hin, hstand⟩ := h.table.leave
  have hmid : u.JobsMid := by
    refine ⟨hu ▸ hin, hf.workLawful h.work fun a ha => ?_⟩
    rw [hu]
    exact find_leave hj (htag ▸ ha)
  exact ⟨look_mid hmid, by rw [look_jobs, hu]; exact hstand⟩

theorem completeFront_mid {j k : Job} (hj : s.jobs.front = some j) (htag : k.tag = j.tag) :
    (completeFront k s).JobsMid ∧ (completeFront k s).jobs.Standing := by
  obtain ⟨u, hu, hfreed, hjobs⟩ := completeFront_freed k s
  rw [hu]
  exact look_freed_mid h hj htag hfreed hjobs

theorem abortFrontAtOnce_mid {j : Job} (hj : s.jobs.front = some j) (cause : AbortCause) :
    (abortFrontAtOnce j cause s).JobsMid ∧ (abortFrontAtOnce j cause s).jobs.Standing := by
  obtain ⟨u, hu, hfreed, hjobs⟩ := abortFrontAtOnce_freed j cause s
  rw [hu]
  exact look_freed_mid h hj rfl hfreed hjobs

/-- With a front job that is not ABORTING a completion where it is due leaves a front job that stands (R13). -/
theorem completeIfDone_mid (ha : ∀ j ∈ s.jobs.front, j.isAborting = false) :
    (completeIfDone s).JobsMid ∧ (completeIfDone s).jobs.Standing := by
  cases hj : s.jobs.front with
  | none =>
    rw [completeIfDone_none hj]
    exact ⟨h, fun j hj' => by rw [hj] at hj'; cases hj'⟩
  | some j =>
    by_cases hd : j.done < j.length + j.trailing
    · rw [completeIfDone_going hj hd]
      refine ⟨h, fun k hk => ?_⟩
      obtain rfl := Option.some.inj (hj.symm.trans hk)
      exact ⟨ha j hj, hd⟩
    · rw [completeIfDone_last hj (ha j hj) (Nat.not_lt.mp hd)]
      exact completeFront_mid h hj rfl

/-- An aborting front job has no band in work (R94). -/
theorem work_ne_aborting {j : Job} (hj : s.jobs.front = some j) (ha : j.isAborting = true) :
    ∀ w ∈ s.renderer.work, w.job ≠ j.tag := by
  intro w hw heq
  obtain ⟨k, hk, hk', -⟩ := h.work w hw
  rw [heq, find_front hj] at hk
  obtain rfl := Option.some.inj hk
  simp [ha] at hk'

/-- The end of an abort, where a job not ABORTING has rows to consume, leaves a front job that stands. -/
theorem endAbort_mid (hd : ∀ j ∈ s.jobs.front, j.isAborting = false → j.done < j.length + j.trailing) :
    (endAbort s).JobsMid ∧ (endAbort s).jobs.Standing := by
  cases hj : s.jobs.front with
  | none =>
    have he : endAbort s = s := by simp [endAbort, hj]
    rw [he]
    exact ⟨h, fun j hj' => by rw [hj] at hj'; cases hj'⟩
  | some j =>
    cases ha : j.isAborting with
    | false =>
      rw [endAbort_other hj ha]
      refine ⟨h, fun k hk => ?_⟩
      obtain rfl := Option.some.inj (hj.symm.trans hk)
      exact ⟨ha, hd j hj ha⟩
    | true =>
      obtain ⟨u, hu, hjobs, hr, hh⟩ := endAbort_leaves hj ha
      obtain ⟨hin, hstand⟩ := h.table.leave
      have hmid : u.JobsMid := by
        refine ⟨hjobs ▸ hin, workLawful_of h.work hh fun w hw => ⟨w, hr ▸ hw, rfl, rfl, rfl, fun k hk => ⟨k, ?_, .refl k⟩⟩⟩
        rw [hjobs, find_leave hj (work_ne_aborting h hj ha w (hr ▸ hw))]
        exact hk
      rw [hu]
      exact ⟨look_mid hmid, by rw [look_jobs, hjobs]; exact hstand⟩

/-- An abort with a line in flight keeps the law (R18). -/
theorem abortInFlight_mid (cause : AbortCause) : (abortInFlight cause s).JobsMid := by
  cases hj : s.jobs.front with
  | none =>
    have he : abortInFlight cause s = s := by simp [abortInFlight, hj]
    rwa [he]
  | some j =>
    cases ha : j.isAborting with
    | true => rwa [abortInFlight_aborting hj ha]
    | false =>
      have hjobs := abortInFlight_jobs cause s
      rw [abortInFlight_front hj ha] at hjobs ⊢
      rw [look_jobs] at hjobs
      refine look_mid ⟨hjobs ▸ h.table.abort cause, (freeJob_withJobs_freed j.tag true s _).workLawful h.work fun a hne => ?_⟩
      rw [hjobs]
      refine find_abort cause ?_
      simp [JobTable.isFront, hj, Ne.symm hne]

/-- An abort of the back job keeps the law (R21). -/
theorem abortBack_mid {k : Job} (hk : s.jobs.back = some k) : (abortBack k s).JobsMid := by
  have hf := ((freeJob_freed k.tag false s).post (reportJobAborted k .host)).withJobs s.jobs ⟨s.jobs.front, none⟩
  have hu : abortBack k s = look ((post (reportJobAborted k .host) (freeJob k.tag false s)).withJobs ⟨s.jobs.front, none⟩) := by
    simp [abortBack, State.withJobs]
  rw [hu]
  exact look_mid ⟨h.table.backLeaves, hf.workLawful h.work fun a ha => find_backLeaves hk ha⟩

/-- A row consumed keeps the law in the middle of an event (R11). -/
theorem mapFront_mid {f : Job → Job} (b : Nat) (hb : b ≤ 1)
    (hf : ∀ j, f j = { j with done := j.done + 1, blankRows := j.blankRows + b }) : (s.updateFront f).JobsMid := by
  refine ⟨h.table.advance b hb hf, workLawful_of h.work rfl fun w hw => ⟨w, hw, rfl, rfl, rfl, fun j hj => ?_⟩⟩
  rw [State.updateFront_jobs, find_mapFront (fun j _ => by rw [hf])]
  split
  · refine ⟨f j, by rw [Option.mem_def.mp hj]; rfl, ?_⟩
    rw [hf]
    exact ⟨id, rfl, rfl, Nat.le_refl _, id⟩
  · exact ⟨j, hj, .refl j⟩

theorem advanceDone_mid : s.advanceDone.JobsMid := mapFront_mid h 0 (Nat.zero_le 1) fun _ => rfl

theorem advanceBlank_mid : s.advanceBlank.JobsMid := mapFront_mid h 1 (Nat.le_refl 1) fun _ => rfl

end

end Sys2Proof.Machine
end

section
/-! The head channel keeps the law of the job table (R105 to R120). -/

namespace Sys2Proof.Machine

/-! ### The head channel keeps the law of the job table -/

/-- The law in the middle of an event with a front job that stands. -/
structure State.Stands (s : State) : Prop where
  mid : s.JobsMid
  standing : s.jobs.Standing

theorem State.Stands.congr {s t : State} (h : s.Stands) (hh : t.ring.h = s.ring.h) (hj : t.jobs = s.jobs)
    (hw : t.renderer.work = s.renderer.work) : t.Stands :=
  ⟨h.mid.congr hh hj hw, hj ▸ h.standing⟩

theorem State.Stands.lawful {s : State} (h : s.Stands) : s.jobsLawful :=
  (jobsLawful_iff_mid s).mpr ⟨h.mid, h.standing.stays⟩

theorem settle_stands {s : State} (h : s.Stands) : (settle s).Stands := h.congr (by simp) (by simp) (by simp)

/-- With no line in flight a front job that may stay stands. -/
theorem stands_of_lawful {s : State} (h : s.jobsLawful) (hl : s.head.lineInFlight = false) : s.Stands :=
  have ⟨hm, hs⟩ := (jobsLawful_iff_mid s).mp h
  ⟨hm, hs.standing hl⟩

section
variable {s : State} (h : s.Stands)
include h

theorem trailingStep_stands : (trailingStep s).Stands := by
  have hm : s.clearHistory.advanceDone.JobsMid := advanceDone_mid (h.mid.congr (t := s.clearHistory) rfl rfl rfl)
  obtain ⟨hmid, hstand⟩ := completeIfDone_mid hm fun j hj => by
    obtain ⟨i, hi, rfl⟩ := Option.map_eq_some_iff.mp hj
    exact (h.standing i hi).1
  exact settle_stands ⟨hmid, hstand⟩

theorem underrunStep_stands {j : Job} (hj : s.jobs.front = some j) : (underrunStep j s).Stands := by
  unfold underrunStep
  cases j.policy with
  | blank =>
    have hm : (post (reportUnderrun j.tag j.done) s.clearHistory.advanceBlank).JobsMid :=
      (advanceBlank_mid (h.mid.congr (t := s.clearHistory) rfl rfl rfl)).congr (by simp) (by simp) (by simp)
    obtain ⟨hmid, hstand⟩ := completeIfDone_mid hm fun k hk => by
      rw [post_jobs] at hk
      obtain ⟨i, hi, rfl⟩ := Option.map_eq_some_iff.mp hk
      exact (h.standing i hi).1
    exact settle_stands ⟨hmid, hstand⟩
  | abort =>
    obtain ⟨hmid, hstand⟩ := abortFrontAtOnce_mid h.mid hj .underrun
    exact settle_stands ⟨hmid, hstand⟩

theorem startLine_stands (j : Job) (i : Nat) : (startLine j i s).Stands := by
  unfold startLine
  cases s.ring.bandAt i with
  | none => exact h
  | some b => exact h.congr rfl rfl rfl

theorem armedStep_stands {j : Job} (hj : s.jobs.front = some j) : (armedStep j s).Stands := by
  unfold armedStep
  split
  · exact trailingStep_stands h
  · cases s.ring.bandHolding j.tag j.done with
    | none => exact underrunStep_stands h hj
    | some i => exact startLine_stands h j i

theorem servedStep_stands : (servedStep s).Stands := by
  unfold servedStep
  cases hj : s.jobs.front with
  | none => exact settle_stands h
  | some j =>
    dsimp only
    split
    · exact armedStep_stands h hj
    · exact underrunStep_stands h hj

theorem serveLatch_stands : (serveLatch s).Stands := by
  have hhead : (s.headed .idle false).Stands := h.congr rfl rfl rfl
  rw [serveLatch_eq]
  split
  · exact servedStep_stands hhead
  · exact settle_stands hhead

end

theorem releaseBand_mid (line : Line) {s : State} (h : s.JobsMid) : (releaseBand line s).JobsMid := by
  rcases releaseBand_cases line s with he | ⟨b, -, -, he⟩ <;> rw [he]
  · exact h
  · exact look_mid (h.congr rfl rfl rfl)

theorem endAbortOrComplete_stands {s : State} (h : s.JobsMid) : (endAbortOrComplete s).Stands := by
  cases hj : s.jobs.front with
  | none =>
    simp only [endAbortOrComplete, hj]
    exact ⟨h, fun j hj' => by rw [hj] at hj'; cases hj'⟩
  | some j =>
    have hfront : ∀ k ∈ s.jobs.front, k = j := fun k hk => Option.some.inj (Eq.trans (Eq.symm hk) hj)
    simp only [endAbortOrComplete, hj]
    cases ha : j.isAborting with
    | true =>
      obtain ⟨hm, hs⟩ := endAbort_mid h fun k hk hn => by simp [hfront k hk, ha] at hn
      exact ⟨hm, hs⟩
    | false =>
      obtain ⟨hm, hs⟩ := completeIfDone_mid h fun k hk => by rw [hfront k hk, ha]
      exact ⟨hm, hs⟩

theorem linePrinted_stands (line : Line) {s : State} (h : s.JobsMid) : (linePrinted line s).Stands :=
  endAbortOrComplete_stands (releaseBand_mid line (advanceDone_mid (h.congr rfl rfl rfl)))

theorem endLine_stands (line : Line) {s : State} (h : s.JobsMid) : (endLine line s).Stands :=
  serveLatch_stands (linePrinted_stands line h)

theorem abandonLine_stands {s : State} (h : s.JobsMid)
    (hd : ∀ j ∈ s.jobs.front, j.isAborting = false → j.done < j.length + j.trailing) : (abandonLine s).Stands := by
  obtain ⟨hm, hs⟩ := endAbort_mid h hd
  exact serveLatch_stands (State.Stands.congr (t := (endAbort s).orphan .fetch) ⟨hm, hs⟩ rfl rfl rfl)

/-- A change of the head channel that keeps a line in flight keeps the law. -/
theorem jobsLawful_congr {s t : State} (h : s.jobsLawful) (hh : t.ring.h = s.ring.h) (hj : t.jobs = s.jobs)
    (hw : t.renderer.work = s.renderer.work) (hl : s.head.lineInFlight = true → t.head.lineInFlight = true) :
    t.jobsLawful := by
  obtain ⟨hm, hs⟩ := (jobsLawful_iff_mid s).mp h
  exact (jobsLawful_iff_mid t).mpr ⟨hm.congr hh hj hw, hs.congr (congrArg _ hj) hl⟩

/-- What a pulse begun keeps. -/
theorem startPulse_label (p : Pass) (line : Line) (s : State) :
    (startPulse p line s).ring = s.ring ∧ (startPulse p line s).renderer = s.renderer ∧
      (startPulse p line s).placements = s.placements ∧ (startPulse p line s).arbiter = s.arbiter := by
  unfold startPulse markStarted
  split <;> simp

section
variable {s : State} (h : s.jobsLawful)
include h

theorem withMode_lawful (phase : LinePhase) (line : Line) : (s.withMode (.inFlight phase line)).jobsLawful :=
  jobsLawful_congr h rfl rfl rfl fun _ => rfl

theorem startPulse_lawful (p : Pass) (line : Line) : (startPulse p line s).jobsLawful := by
  obtain ⟨hring, hrend, -, -⟩ := startPulse_label p line s
  exact jobsLawful_congr h (by rw [hring]) (startPulse_jobs p line s) (by rw [hrend]) fun _ => by
    rw [startPulse_head]
    rfl

theorem endLine_lawful (line : Line) : (endLine line s).jobsLawful :=
  (endLine_stands line ((jobsLawful_iff_mid s).mp h).1).lawful

theorem abandonLine_lawful : (abandonLine s).jobsLawful := by
  obtain ⟨hm, hs⟩ := (jobsLawful_iff_mid s).mp h
  exact (abandonLine_stands hm fun j hj _ => (hs j hj).1).lawful

theorem takeUpGroup_lawful (p : Pass) (k : Nat) (line : Line) : (takeUpGroup p k line s).jobsLawful := by
  unfold takeUpGroup
  cases nextGroup s.headCfg (line.passBytes p) k with
  | some g =>
    dsimp only
    split
    · exact withMode_lawful h _ _
    · exact startPulse_lawful h _ _
  | none =>
    cases p with
    | pre => exact withMode_lawful h _ _
    | main => exact endLine_lawful h line

theorem lineFetched_lawful (line : Line) : (lineFetched line s).jobsLawful := by
  unfold lineFetched
  split
  · dsimp only
    split <;> exact withMode_lawful h _ _
  · exact endLine_lawful h line

/-- An abort with a line in flight leaves a lawful job table (R18). -/
theorem abortInFlight_lawful (cause : AbortCause) (hl : s.head.lineInFlight = true) :
    (abortInFlight cause s).jobsLawful := by
  obtain ⟨hm, hs⟩ := (jobsLawful_iff_mid s).mp h
  refine (jobsLawful_iff_mid _).mpr ⟨abortInFlight_mid hm cause, fun j hj => ⟨?_, fun _ => ?_⟩⟩
  · rw [abortInFlight_jobs] at hj
    obtain ⟨i, hi, rfl⟩ := Option.map_eq_some_iff.mp hj
    have had := (hs i hi).1
    unfold Job.abort
    split <;> exact had
  · rwa [abortInFlight_mode]

theorem endShift_lawful : (endShift s).jobsLawful ∧ s.jobs.Onward (endShift s).jobs := by
  unfold endShift
  split
  · exact ⟨takeUpGroup_lawful h _ _ _, takeUpGroup_onward _ _ _ s⟩
  · exact ⟨h, .refl _⟩

theorem endPulse_lawful : (endPulse s).jobsLawful ∧ s.jobs.Onward (endPulse s).jobs := by
  unfold endPulse
  split
  · split
    · exact ⟨abandonLine_lawful h, abandonLine_onward s⟩
    · exact ⟨takeUpGroup_lawful h _ _ _, takeUpGroup_onward _ _ _ s⟩
  · exact ⟨h, .refl _⟩

theorem endFetch_lawful : (endFetch s).jobsLawful ∧ s.jobs.Onward (endFetch s).jobs := by
  unfold endFetch
  split
  · exact ⟨lineFetched_lawful h _, lineFetched_onward _ s⟩
  · exact ⟨h, .refl _⟩

theorem expireHold_lawful : (expireHold s).jobsLawful ∧ s.jobs.Onward (expireHold s).jobs := by
  unfold expireHold
  split
  · rename_i hm
    exact ⟨abandonLine_lawful (abortInFlight_lawful h _ (by simp [Head.lineInFlight, hm])),
      (abortInFlight_onward _ s).trans (abandonLine_onward _)⟩
  · exact ⟨h, .refl _⟩

theorem releaseHold_lawful : (releaseHold s).jobsLawful ∧ s.jobs.Onward (releaseHold s).jobs := by
  unfold releaseHold
  split
  · exact ⟨startPulse_lawful h _ _, .of_eq (startPulse_jobs _ _ s)⟩
  · exact ⟨h, .refl _⟩

/-- One period of a phase of the line keeps the law (R109, R110, R120). -/
theorem timers_lawful : (timers s).jobsLawful ∧ s.jobs.Onward (timers s).jobs := by
  unfold timers
  split
  · split
    · exact endShift_lawful h
    · exact ⟨withMode_lawful h _ _, .refl _⟩
  · split
    · exact endPulse_lawful h
    · exact ⟨withMode_lawful h _ _, .refl _⟩
  · split
    · exact expireHold_lawful h
    · exact ⟨withMode_lawful h _ _, .refl _⟩
  · exact ⟨h, .refl _⟩

theorem loseStep_lawful (phase : LinePhase) (line : Line) :
    (loseStep phase line s).jobsLawful ∧ s.jobs.Onward (loseStep phase line s).jobs := by
  have hhead : (s.headed (.inFlight phase { line with ending := true }) false).jobsLawful :=
    jobsLawful_congr h rfl rfl rfl fun _ => rfl
  have habort := abortInFlight_lawful hhead .stepLost rfl
  have honward := abortInFlight_onward .stepLost (s.headed (.inFlight phase { line with ending := true }) false)
  rw [loseStep_eq]
  split
  · exact ⟨habort, honward⟩
  · exact ⟨abandonLine_lawful habort, honward.trans (abandonLine_onward _)⟩

/-- A line step keeps the law (R105). -/
theorem lineStepOp_lawful : (lineStepOp s).jobsLawful ∧ s.jobs.Onward (lineStepOp s).jobs := by
  unfold lineStepOp
  split
  · split
    · exact ⟨h, .refl _⟩
    · rename_i j hm hj
      exact ⟨(underrunStep_stands (stands_of_lawful h (by simp [Head.lineInFlight, hm])) hj).lawful, underrunStep_onward j s⟩
    · rename_i j hm hj
      exact ⟨(armedStep_stands (stands_of_lawful h (by simp [Head.lineInFlight, hm])) hj).lawful, armedStep_onward j s⟩
    · split
      · exact ⟨h, .refl _⟩
      · split
        · exact loseStep_lawful h _ _
        · exact ⟨jobsLawful_congr h rfl rfl rfl id, .refl _⟩
    · exact ⟨h, .refl _⟩
  · exact ⟨h, .refl _⟩

end

end Sys2Proof.Machine
end

section
/-! What an access performed and the completion of a band change, and that they keep the law of the job table (R96, R128). -/

namespace Sys2Proof.Machine

/-! ### The access performed, case by case (R128) -/

/-- The end of a segment changes the upload channel, the report queue and REPORTS_LOST (R144). -/
theorem endSegment_frame (g : Segment) (s : State) :
    ∃ up rep f, endSegment g s = { s with upload := up, reports := rep, port := { s.port with sticky := f } } := by
  unfold endSegment
  split
  · exact ⟨_, _, _, by rw [post_eq]⟩
  · exact ⟨_, _, _, rfl⟩

theorem setCurrent_frame (g : Segment) (fifo : List Byte) (s : State) :
    ∃ up rep f, setCurrent g fifo s = { s with upload := up, reports := rep, port := { s.port with sticky := f } } := by
  unfold setCurrent
  dsimp only
  split
  · obtain ⟨up, rep, f, h⟩ := endSegment_frame g { s with upload := { s.upload with cur := some g, fifo := fifo } }
    exact ⟨up, rep, f, h⟩
  · exact ⟨_, _, _, rfl⟩

/-- What an operation that moves on changes. -/
inductive Moved (c : Client) (v : Byte) (s : State) : State → Prop where
  | nothing : Moved c v s s
  | fetch (line : Line) (hm : s.head.mode = .inFlight .fetch line) (hc : c = .fetch) :
      Moved c v s (s.withMode (.inFlight .fetch { line with bytes := line.bytes ++ [v] }))
  | renderer (w : Work) (hw : s.renderer = .rendering w) : Moved c v s { s with renderer := .rendering (w.advance s v) }
  | upload (up : Upload) (rep : ReportQueue) (f : Sticky) :
      Moved c v s { s with upload := up, reports := rep, port := { s.port with sticky := f } }
  | clear (a : Nat) (ha : s.phase = .clearing a) : Moved c v s { s with phase := .clearing (a + 1) }
  | copy (p : ProofCopy) (hp : s.port.proof = some p) :
      Moved c v s { s with port := { s.port with proof := some { p with copied := p.copied ++ [v] } } }

theorem progress_moved (c : Client) (v : Byte) (s : State) : Moved c v s (progress c v s) := by
  cases c with
  | fetch =>
    cases hm : s.head.mode with
    | inFlight phase line =>
      cases phase with
      | fetch =>
        simp only [progress, hm]
        exact .fetch line hm rfl
      | _ =>
        simp only [progress, hm]
        exact .nothing
    | _ =>
      simp only [progress, hm]
      exact .nothing
  | rotating k =>
    cases k with
    | renderer =>
      cases hr : s.renderer with
      | rendering w =>
        simp only [progress, hr]
        exact .renderer w hr
      | _ =>
        simp only [progress, hr]
        exact .nothing
    | upload =>
      cases hu : s.upload.cur with
      | none =>
        simp only [progress, hu]
        exact .nothing
      | some g =>
        cases hd : g.direction with
        | dirIn =>
          simp only [progress, hu, hd, storePerformed]
          obtain ⟨up, rep, f, h⟩ := setCurrent_frame { g.advance with bytesLeft := g.bytesLeft - 1 } s.upload.fifo.tail s
          rw [h]
          exact .upload up rep f
        | dirOut =>
          simp only [progress, hu, hd, prefetchPerformed]
          exact .upload _ s.reports s.port.sticky
    | port =>
      cases hp : s.phase with
      | clearing a =>
        simp only [progress, hp]
        exact .clear a hp
      | _ =>
        cases hc : s.port.proof with
        | none =>
          simp only [progress, hp, hc]
          exact .nothing
        | some p =>
          simp only [progress, hp, hc]
          rw [← hp]
          exact .copy p hc

/-- The state after the byte of the access has landed, and before its operation moves on. -/
def State.landing (s : State) (m : Memory) : State :=
  { s with mem := m, arbiter := { s.arbiter with inProgress := none } }

/-- The access performed: a byte lands, or none, and the operation of a live access moves on (R128, R129). -/
theorem perform_moved (s : State) :
    (s.quiet ∧ perform s = s) ∨
      ∃ a m v, s.arbiter.inProgress = some a ∧ Moved a.client v (s.landing m) (perform s) ∧
        (a.live = true ∨ perform s = s.landing m) := by
  cases ha : s.arbiter.inProgress with
  | none => exact .inl ⟨ha, perform_quiet ha⟩
  | some a =>
    have hland : ∃ m, ({ s with arbiter := { s.arbiter with inProgress := none } } : State).land a = s.landing m := by
      cases hw : a.write with
      | none => exact ⟨s.mem, by simp [State.land, hw, State.landing]⟩
      | some b => exact ⟨Memory.write s.mem a.addr b, by simp [State.land, hw, State.landing]⟩
    obtain ⟨m, hm⟩ := hland
    refine .inr ⟨a, m, Memory.read s.mem a.addr, rfl, ?_⟩
    simp only [perform, ha, hm]
    split
    · exact ⟨progress_moved _ _ _, .inl (by assumption)⟩
    · exact ⟨.nothing, .inr rfl⟩

/-- What an access performed leaves as it is. -/
structure Performed (s t : State) : Prop where
  jobs : t.jobs = s.jobs
  placements : t.placements = s.placements
  ring : t.ring = s.ring
  headCfg : t.headCfg = s.headCfg
  glyphs : t.glyphs = s.glyphs
  renderer : t.renderer = s.renderer ∨ ∃ w v, s.renderer = .rendering w ∧ t.renderer = .rendering (w.advance s v)
  head : t.head = s.head ∨ ∃ line v, s.head.mode = .inFlight .fetch line ∧
    t.head = { s.head with mode := .inFlight .fetch { line with bytes := line.bytes ++ [v] } }
  inProgress : t.arbiter.inProgress = none

theorem performed (s : State) : Performed s (perform s) := by
  rcases perform_moved s with ⟨hq, h⟩ | ⟨a, m, v, -, h, -⟩
  · rw [h]
    exact ⟨rfl, rfl, rfl, rfl, rfl, .inl rfl, .inl rfl, hq⟩
  · generalize perform s = t at h
    cases h with
    | renderer w hw => exact ⟨rfl, rfl, rfl, rfl, rfl, .inr ⟨w, v, hw, rfl⟩, .inl rfl, rfl⟩
    | fetch line hm => exact ⟨rfl, rfl, rfl, rfl, rfl, .inl rfl, .inr ⟨line, v, hm, rfl⟩, rfl⟩
    | _ => exact ⟨rfl, rfl, rfl, rfl, rfl, .inl rfl, .inl rfl, rfl⟩

/-- A reading taken keeps the band and the rows of the work (R90). -/
theorem read_band (w : Work) (s : State) :
    (w.read s).band = w.band ∧ (w.read s).job = w.job ∧ (w.read s).first = w.first ∧ (w.read s).count = w.count := by
  unfold Work.read
  split
  · split
    · split
      · dsimp only
        split <;> exact ⟨rfl, rfl, rfl, rfl⟩
      · exact ⟨rfl, rfl, rfl, rfl⟩
    · exact ⟨rfl, rfl, rfl, rfl⟩
  · exact enter_band ..
  · exact ⟨rfl, rfl, rfl, rfl⟩

/-- The renderer's progress in its band keeps the law of the job table. -/
theorem jobsLawful_of_progress {s t : State} (h : s.jobsLawful) (hh : t.ring.h = s.ring.h) (hj : t.jobs = s.jobs)
    (hw : ∀ w' ∈ t.renderer.work, ∃ w ∈ s.renderer.work, w'.job = w.job ∧ w'.first = w.first ∧ w'.count = w.count)
    (hl : s.head.lineInFlight = true → t.head.lineInFlight = true) : t.jobsLawful := by
  obtain ⟨hm, hs⟩ := (jobsLawful_iff_mid s).mp h
  refine (jobsLawful_iff_mid t).mpr ⟨⟨hj ▸ hm.table, workLawful_of hm.work hh fun w' hw' => ?_⟩, hs.congr (congrArg _ hj) hl⟩
  obtain ⟨w, hmem, h1, h2, h3⟩ := hw w' hw'
  exact ⟨w, hmem, h1, h2, h3, fun j hj' => ⟨j, hj ▸ hj', .refl j⟩⟩

theorem perform_lawful {s : State} (h : s.jobsLawful) : (perform s).jobsLawful := by
  have hp := performed s
  refine jobsLawful_of_progress h (by rw [hp.ring]) hp.jobs (fun w' hw' => ?_) fun hl => ?_
  · rcases hp.renderer with hr | ⟨w, v, hw, hr⟩ <;> rw [hr] at hw'
    · exact ⟨w', hw', rfl, rfl, rfl⟩
    · obtain rfl := Option.some.inj hw'
      obtain ⟨-, h1, h2, h3⟩ := advance_band w s v
      exact ⟨w, by rw [hw]; rfl, h1, h2, h3⟩
  · rcases hp.head with he | ⟨line, v, -, he⟩ <;> rw [he]
    · exact hl
    · rfl

theorem takeReading_lawful {s : State} (h : s.jobsLawful) : (takeReading s).jobsLawful := by
  cases hr : s.renderer with
  | rendering w =>
    simp only [takeReading, hr]
    refine jobsLawful_of_progress h rfl rfl (fun w' hw' => ?_) id
    obtain rfl := Option.some.inj hw'
    obtain ⟨-, h1, h2, h3⟩ := read_band w s
    exact ⟨w, by rw [hr]; rfl, h1, h2, h3⟩
  | _ =>
    simp only [takeReading, hr]
    exact h

/-! ### The completion of a band (R12, R96) -/

/-- The rendered row of the job of a completed band. -/
def Job.renderedTo (row : Nat) (j : Job) : Job := { j with rendered := row }

/-- The state of a completed band before the renderer looks (R96). -/
def bandCompleted (w : Work) (s : State) : State :=
  { s with
    ring := { s.ring with bands := s.ring.bands.set w.band (completedBand w s.jobs) }
    jobs := s.jobs.update w.job (Job.renderedTo (w.first + w.count))
    placements := s.placements.filter fun p => !retiresIn w p
    renderer := .idle }

theorem bandDone_completed (w : Work) (s : State) :
    bandDone w s = settle (look (postAll (retiredReports w s.placements) (bandCompleted w s))) := rfl

/-- Reports posted leave the label. -/
theorem postAll_label (rs : List Report) (s : State) :
    (postAll rs s).jobs = s.jobs ∧ (postAll rs s).placements = s.placements ∧ (postAll rs s).ring = s.ring ∧
      (postAll rs s).renderer = s.renderer ∧ (postAll rs s).head = s.head ∧ (postAll rs s).arbiter = s.arbiter := by
  unfold postAll
  induction rs generalizing s with
  | nil => exact ⟨rfl, rfl, rfl, rfl, rfl, rfl⟩
  | cons r rs ih =>
    obtain ⟨h1, h2, h3, h4, h5, h6⟩ := ih (post r s)
    exact ⟨h1.trans (post_jobs r s), h2.trans (post_placements r s), h3.trans (post_ring r s),
      h4.trans (post_renderer r s), h5.trans (post_head r s), h6.trans (post_arbiter r s)⟩

section
variable {s : State} {w : Work} (hmid : s.JobsMid) (hw : w ∈ s.renderer.work)
include hmid hw

/-- The job of the band in work, and the band's rows from its rendered row up to its length or the commit row (R79, R80). -/
theorem work_job {j : Job} (hj : s.jobs.holds j) (htag : j.tag = w.job) :
    w.first = j.rendered ∧ w.first + w.count ≤ j.length ∧ j.isAborting = false := by
  obtain ⟨k, hk, ha, hf, hlt, hc, -⟩ := hmid.work w hw
  have hkj : k = j := by
    have := hmid.table.find_of_holds hj
    rw [htag, Option.mem_def.mp hk] at this
    exact Option.some.inj this
  subst hkj
  refine ⟨hf, ?_, ha⟩
  rw [hc, hf]
  omega

theorem bandCompleted_mid : (bandCompleted w s).JobsMid := by
  refine ⟨hmid.table.update fun j hj ht => ?_, workLawful_of_none rfl⟩
  obtain ⟨-, hle, -⟩ := work_job hmid hw hj ht
  have hb := hmid.table.bounded hj
  exact ⟨⟨hb.length_pos, hb.length_le, hb.trailing, hb.commitRow, hle, hb.blankRows, hb.closed⟩, rfl, rfl, rfl, rfl, id⟩

theorem bandCompleted_onward : s.jobs.Onward (bandCompleted w s).jobs := by
  refine .update fun j hj ht => ⟨rfl, Nat.le_refl _, ?_, Nat.le_refl _, rfl, rfl⟩
  obtain ⟨hf, -, -⟩ := work_job hmid hw hj ht
  exact Nat.le_trans (Nat.le_of_eq hf.symm) (Nat.le_add_right _ _)

end

/-- The front job stays where the job of a tag changes in its state, its commit row or its rendered row. -/
theorem frontStays_update {s t : State} (h : s.frontStays) {tag : Byte} {f : Job → Job} (hj : t.jobs = s.jobs.update tag f)
    (hf : ∀ j, (f j).done = j.done ∧ (f j).length = j.length ∧ (f j).trailing = j.trailing)
    (ha : ∀ j ∈ s.jobs.front, j.tag = tag → (f j).isAborting = true → j.isAborting = true)
    (hl : s.head.lineInFlight = true → t.head.lineInFlight = true) :
    t.frontStays := by
  intro k hk
  rw [hj] at hk
  obtain ⟨j, hj', rfl⟩ := Option.map_eq_some_iff.mp hk
  obtain ⟨hd, hab⟩ := h j hj'
  unfold Job.updateIf
  split
  · rename_i ht
    obtain ⟨h1, h2, h3⟩ := hf j
    exact ⟨by rw [h1, h2, h3]; exact hd, fun hn => hl (hab (ha j hj' ht hn))⟩
  · exact ⟨hd, fun hn => hl (hab hn)⟩

theorem settle_lineInFlight {s : State} (h : s.head.lineInFlight = true) : settle s = s := by simp [settle, h]

theorem bandDone_lawful {s : State} {w : Work} (h : s.jobsLawful) (hw : w ∈ s.renderer.work) :
    (bandDone w s).jobsLawful ∧ s.jobs.Onward (bandDone w s).jobs := by
  obtain ⟨hm, hs⟩ := (jobsLawful_iff_mid s).mp h
  obtain ⟨h1, -, h3, h4, h5, -⟩ := postAll_label (retiredReports w s.placements) (bandCompleted w s)
  have hlook : (look (postAll (retiredReports w s.placements) (bandCompleted w s))).JobsMid :=
    look_mid ((bandCompleted_mid hm hw).congr (by rw [h3]) h1 (by rw [h4]))
  have hjobs : (bandDone w s).jobs = (bandCompleted w s).jobs := by
    rw [bandDone_completed, settle_jobs, look_jobs, h1]
  refine ⟨(jobsLawful_iff_mid _).mpr ⟨?_, ?_⟩, ?_⟩
  · exact hlook.congr (by simp [bandDone_completed]) (by simp [bandDone_completed]) (by simp [bandDone_completed])
  · refine frontStays_update hs hjobs (fun j => ⟨rfl, rfl, rfl⟩) (fun _ _ _ ha => ha) fun hl => ?_
    have hl' : (look (postAll (retiredReports w s.placements) (bandCompleted w s))).head.lineInFlight = true := by
      rw [look_head, h5]
      exact hl
    rw [bandDone_completed, settle_lineInFlight hl']
    exact hl'
  · rw [hjobs]
    exact bandCompleted_onward hm hw

end Sys2Proof.Machine
end

section
/-! What a step can be, said once: the rows and the internal step, by what they do to the label. -/

namespace Sys2Proof.Machine

/-! ### A CMD write (R164 to R168) -/

/-- What a command that is taken leads to, from the state after the take, but for SOFT_RESET. -/
inductive Commanded (ps : List Byte) (s : State) : State → Prop where
  | answered (r : Reply) : Commanded ps s (complete r s)
  | setHead (c : HeadConfig) (h : setHeadCheck ps s = .ok c) : Commanded ps s (complete ⟨.ok, []⟩ (setHeadAct c s))
  | setBands (p : BandParams) (h : setBandsCheck ps s = .ok p) : Commanded ps s (complete ⟨.ok, []⟩ (setBandsAct p s))
  | defineGlyph (e : GlyphEntry) (h : defineGlyphCheck ps s = .ok e) :
      Commanded ps s (complete ⟨.ok, []⟩ (defineGlyphAct e s))
  | restoreGlyph (code : Byte) : Commanded ps s (complete ⟨.ok, []⟩ (restoreGlyphAct code s))
  | openJob (p : OpenParams) (h : openJobCheck ps s = .ok p) : Commanded ps s (complete ⟨.ok, []⟩ (openJobAct p s))
  | place (p : Placement) (h : placeCheck ps s = .ok p) : Commanded ps s (complete ⟨.ok, p.answer⟩ (placeAct p s))
  | withdraw (handle : Nat) (h : withdrawCheck ps s = .ok handle) :
      Commanded ps s (complete ⟨.ok, []⟩ (withdrawAct handle s))
  | commit (x : Job × Nat) (h : commitCheck ps s = .ok x) : Commanded ps s (complete ⟨.ok, []⟩ (commitAct x.1 x.2 s))
  | closeJob (j : Job) (h : closeJobCheck ps s = .ok j) : Commanded ps s (complete ⟨.ok, []⟩ (closeJobAct j s))
  | abortJob (j : Job) (h : abortJobCheck ps s = .ok j) : Commanded ps s (complete ⟨.ok, []⟩ (abortJobAct j s))
  | loadSegment (g : Segment) : Commanded ps s (complete ⟨.ok, []⟩ (loadSegmentAct g s))
  | stopUpload (answer : List Byte) : Commanded ps s (complete ⟨.ok, answer⟩ (stopUploadAct s))
  | proof (c : ProofCopy) (h : proofCheck ps s = .ok c) : Commanded ps s (proofAct c s).1

/-- A command that checks its parameters answers the refusal, or leads to what its act does. -/
theorem checked_commanded {α : Type} {ps : List Byte} {s : State} (c : Except ResultCode α) (act : α → State × Option Reply)
    (h : ∀ v, c = .ok v → Commanded ps s (completeWith (act v))) : Commanded ps s (completeWith (checked c act s)) := by
  cases hc : c with
  | error r => exact .answered ⟨r, []⟩
  | ok v => exact h v hc

/-- The command a code names, but for SOFT_RESET. -/
theorem bodyOf_commanded {code : Byte} (hcode : code ≠ Config.codeSoftReset) (ps : List Byte) (s : State) :
    Commanded ps s (completeWith (bodyOf code ps s)) := by
  generalize hb : bodyOf code = body
  unfold bodyOf at hb
  split at hb <;> subst hb
  · exact checked_commanded _ _ fun c h => .setHead c h
  · exact checked_commanded _ _ fun c h => .setBands c h
  · exact checked_commanded _ _ fun c h => .defineGlyph c h
  · exact checked_commanded _ _ fun c _ => .restoreGlyph c
  · exact checked_commanded _ _ fun c h => .openJob c h
  · exact checked_commanded _ _ fun c h => .commit c h
  · exact checked_commanded _ _ fun c h => .closeJob c h
  · exact checked_commanded _ _ fun c h => .abortJob c h
  · exact checked_commanded _ _ fun _ _ => .answered _
  · exact checked_commanded _ _ fun c h => .place c h
  · exact checked_commanded _ _ fun c h => .withdraw c h
  · exact checked_commanded _ _ fun c _ => .loadSegment c
  · exact checked_commanded _ _ fun _ _ => .stopUpload _
  · exact checked_commanded _ _ fun c h => .proof c h
  · rename_i h
    exact absurd (BitVec.eq_of_toNat_eq h) hcode
  · exact .answered _

/-- A CMD write: not taken, refused, SOFT_RESET, or any other command taken with none busy. -/
inductive Written (code : Byte) (s : State) : State → Prop where
  | held : Written code s s
  | refused : Written code s (refuseWrite s)
  | softReset (h : s.phase = .ready) :
      Written code s (complete ⟨.ok, []⟩ (softResetAct (take Config.codeSoftReset s)))
  | taken (h : s.admits) (t : State) (ht : Commanded s.port.params (take code s) t) : Written code s t

theorem writeCmd_written (code : Byte) (s : State) : Written code s (writeCmd code s) := by
  unfold writeCmd
  by_cases hheld : s.phase = .held
  · rw [offer_held hheld]
    exact .held
  by_cases ht : takes code s = true
  swap
  · rw [offer_refused hheld (by simpa using ht)]
    exact .refused
  simp only [takes, State.isReady, Bool.and_eq_true, Bool.or_eq_true, decide_eq_true_eq, Bool.not_eq_true'] at ht
  obtain ⟨hready, hfree⟩ := ht
  by_cases hcode : code = Config.codeSoftReset
  · subst hcode
    rw [offer_softReset hready]
    exact .softReset hready
  · have hbusy : s.port.busy = false := hfree.resolve_right hcode
    rw [offer_taken ⟨hready, hbusy⟩]
    exact .taken ⟨hready, hbusy⟩ _ (bodyOf_commanded hcode _ _)

/-! ### The rows -/

/-- Nothing of the label changes: jobs, placements, bands, renderer, head channel, glyph store and configurations, the phase
and the PROOF copy, and the access in progress. -/
structure SameLabel (s t : State) : Prop where
  phase : t.phase = s.phase
  jobs : t.jobs = s.jobs
  placements : t.placements = s.placements
  glyphs : t.glyphs = s.glyphs
  ring : t.ring = s.ring
  renderer : t.renderer = s.renderer
  headCfg : t.headCfg = s.headCfg
  head : t.head = s.head
  proof : t.port.proof = s.port.proof
  inProgress : t.arbiter.inProgress = s.arbiter.inProgress
  port : s.portLawful → t.portLawful

theorem SameLabel.refl (s : State) : SameLabel s s := ⟨rfl, rfl, rfl, rfl, rfl, rfl, rfl, rfl, rfl, rfl, id⟩

/-- The port's law does not look at its flags. -/
theorem portLawful_sticky {s t : State} {f : Sticky} (hp : t.phase = s.phase) (h : t.port = { s.port with sticky := f }) :
    s.portLawful → t.portLawful := by
  rintro ⟨h1, h2, h3, h4⟩
  refine ⟨by rw [h]; exact h1, by rw [h]; exact h2, fun hr => ?_, fun hr => ?_⟩
  · rw [h]
    exact h3 (hp ▸ hr)
  · rw [h]
    exact h4 (hp ▸ hr)

theorem setCurrent_sameLabel (g : Segment) (fifo : List Byte) (s : State) : SameLabel s (setCurrent g fifo s) := by
  obtain ⟨up, rep, f, h⟩ := setCurrent_frame g fifo s
  rw [h]
  exact ⟨rfl, rfl, rfl, rfl, rfl, rfl, rfl, rfl, rfl, rfl, portLawful_sticky rfl rfl⟩

/-- What a row does to the label. -/
inductive Event (s : State) : State → Prop where
  | same {t : State} (h : SameLabel s t) : Event s t
  | access {t : State} (h : SameLabel (perform s) t) : Event s t
  | command (code : Byte) : Event s (writeCmd code s)
  | reset (phase : PowerPhase) (h : phase ≠ .ready) : Event s (s.inReset phase)
  | clearEnd (a : Nat) (h : s.phase = .clearing a) : Event s (finishClear (perform s))
  | lineStep : Event s (lineStepOp s)
  | hotReleased {t : State} (h : SameLabel s t) : Event s (releaseHold t)
  | fetchEnd : Event s (endFetch (perform s))
  | shiftEnd : Event s (endShift s)
  | pulseEnd : Event s (endPulse s)
  | holdExpired : Event s (expireHold s)
  | bandEnd {t : State} (h : SameLabel (perform s) t) : Event s (finishBand t)
  | copyEnd {t : State} (h : SameLabel (perform s) t) : Event s (endProof t)

theorem paramWrite_sameLabel (v : Byte) (s : State) : SameLabel s (paramWriteOp v s) := by
  unfold paramWriteOp
  split
  · exact .refl s
  · split
    · rename_i hl
      refine ⟨rfl, rfl, rfl, rfl, rfl, rfl, rfl, rfl, rfl, rfl, fun ⟨_, h2, h3, h4⟩ => ⟨?_, h2, h3, h4⟩⟩
      simp only [List.length_append, List.length_cons, List.length_nil]
      exact hl
    · exact ⟨rfl, rfl, rfl, rfl, rfl, rfl, rfl, rfl, rfl, rfl, portLawful_sticky rfl rfl⟩

theorem answerRead_sameLabel (s : State) : SameLabel s (answerReadOp s) := by
  unfold answerReadOp
  split
  · exact ⟨rfl, rfl, rfl, rfl, rfl, rfl, rfl, rfl, rfl, rfl, id⟩
  · split
    · rename_i hl
      exact ⟨rfl, rfl, rfl, rfl, rfl, rfl, rfl, rfl, rfl, rfl, fun ⟨h1, _, h3, h4⟩ => ⟨h1, hl, h3, h4⟩⟩
    · exact ⟨rfl, rfl, rfl, rfl, rfl, rfl, rfl, rfl, rfl, rfl, id⟩

theorem dataWrite_sameLabel (v : Byte) (s : State) : SameLabel s (dataWriteOp v s) := by
  unfold dataWriteOp
  split
  · exact .refl s
  · split
    · exact ⟨rfl, rfl, rfl, rfl, rfl, rfl, rfl, rfl, rfl, rfl, id⟩
    · exact ⟨rfl, rfl, rfl, rfl, rfl, rfl, rfl, rfl, rfl, rfl, portLawful_sticky rfl rfl⟩

theorem shortData_sameLabel (s : State) : SameLabel s (shortData s) :=
  ⟨rfl, rfl, rfl, rfl, rfl, rfl, rfl, rfl, rfl, rfl, portLawful_sticky rfl rfl⟩

theorem dataRead_sameLabel (s : State) : SameLabel s (dataReadOp s) := by
  unfold dataReadOp
  split
  · exact ⟨rfl, rfl, rfl, rfl, rfl, rfl, rfl, rfl, rfl, rfl, id⟩
  · split
    · rename_i g v rest _ _
      split
      · obtain ⟨h1, h2, h3, h4, h5, h6, h7, h8, h9, h10, h11⟩ :=
          setCurrent_sameLabel { g with bytesLeft := g.bytesLeft - 1 } rest { s with dataOut := v }
        exact ⟨h1, h2, h3, h4, h5, h6, h7, h8, h9, h10, h11⟩
      · exact shortData_sameLabel s
    · exact shortData_sameLabel s

theorem reportRead_sameLabel (s : State) : SameLabel s (reportReadOp s) := by
  unfold reportReadOp
  split <;> exact ⟨rfl, rfl, rfl, rfl, rfl, rfl, rfl, rfl, rfl, rfl, id⟩

theorem irqPendWrite_sameLabel (v : Byte) (s : State) : SameLabel s (irqPendWriteOp v s) := by
  unfold irqPendWriteOp
  split <;> exact ⟨rfl, rfl, rfl, rfl, rfl, rfl, rfl, rfl, rfl, rfl, id⟩

theorem irqEnWrite_sameLabel (v : Byte) (s : State) : SameLabel s (irqEnWriteOp v s) := by
  unfold irqEnWriteOp
  split <;> exact ⟨rfl, rfl, rfl, rfl, rfl, rfl, rfl, rfl, rfl, rfl, id⟩

theorem rowDoneLowRead_sameLabel (s : State) : SameLabel s (rowDoneLowReadOp s) := by
  unfold rowDoneLowReadOp
  split <;> exact ⟨rfl, rfl, rfl, rfl, rfl, rfl, rfl, rfl, rfl, rfl, id⟩

theorem stickyWrite_sameLabel (v : Byte) (s : State) : SameLabel s (stickyWriteOp v s) := by
  unfold stickyWriteOp
  split
  · exact .refl s
  · exact ⟨rfl, rfl, rfl, rfl, rfl, rfl, rfl, rfl, rfl, rfl, portLawful_sticky rfl rfl⟩

theorem writeRegister_event (offset : BitVec 4) (v : Byte) (s : State) : Event s (writeRegister offset v s) := by
  unfold writeRegister
  split
  · exact .command v
  · exact .same (paramWrite_sameLabel v s)
  · exact .same (dataWrite_sameLabel v s)
  · exact .same (irqPendWrite_sameLabel v s)
  · exact .same (irqEnWrite_sameLabel v s)
  · exact .same (stickyWrite_sameLabel v s)
  · exact .same (.refl s)

theorem paperChange_sameLabel (b : Bool) (s : State) : SameLabel s (paperChangeOp b s) := by
  unfold paperChangeOp
  dsimp only
  split
  · exact ⟨rfl, rfl, rfl, rfl, rfl, rfl, rfl, rfl, rfl, rfl, id⟩
  · split <;> exact ⟨rfl, rfl, rfl, rfl, rfl, rfl, rfl, rfl, rfl, rfl, id⟩

theorem hotChange_event (b : Bool) (s : State) : Event s (hotChangeOp b s) := by
  have hlevel : SameLabel s { s with hot := b } := ⟨rfl, rfl, rfl, rfl, rfl, rfl, rfl, rfl, rfl, rfl, id⟩
  have hlatched : SameLabel s ({ s with hot := b } : State).latchInput := ⟨rfl, rfl, rfl, rfl, rfl, rfl, rfl, rfl, rfl, rfl, id⟩
  unfold hotChangeOp
  dsimp only
  split
  · exact .same hlevel
  · split
    · exact .same hlevel
    · split
      · exact .same hlatched
      · exact .hotReleased hlatched

theorem restServed_sameLabel (left : Bool) (k : Rotating) (s : State) : SameLabel s (s.restServed left k) :=
  ⟨rfl, rfl, rfl, rfl, rfl, rfl, rfl, rfl, rfl, rfl, id⟩

theorem storeNow_sameLabel (g : Segment) (v : Byte) (s : State) : SameLabel s (storeNow g v s) := by
  obtain ⟨h1, h2, h3, h4, h5, h6, h7, h8, h9, h10, h11⟩ := setCurrent_sameLabel
    { g.advance with bytesLeft := g.bytesLeft - 1 }
    ((s.land ⟨.rotating .upload, g.cursor, some v, true⟩).served .upload).upload.fifo.tail
    ((s.land ⟨.rotating .upload, g.cursor, some v, true⟩).served .upload)
  exact ⟨h1, h2, h3, h4, h5, h6, h7, h8, h9, h10, h11⟩

/-- A row answers a fault, or is one of the events. -/
theorem exec_event {i : Instr} {s t : State} (h : exec i s = .next t) : Event s t := by
  have next : ∀ {u : State}, (Host.Outcome.next u : Host.Outcome State Fault Refusal) = .next t → Event s u → Event s t :=
    fun h he => Host.Outcome.next.inj h ▸ he
  have fault : (Host.Outcome.fault Fault.addressOutsideMemory : Host.Outcome State Fault Refusal) = .next t → Event s t :=
    fun h => by cases h
  cases i with
  | softReset => exact next h (.command _)
  | setHead => exact next h (.command _)
  | setBands => exact next h (.command _)
  | defineGlyph => exact next h (.command _)
  | restoreGlyph => exact next h (.command _)
  | openJob => exact next h (.command _)
  | place => exact next h (.command _)
  | withdraw => exact next h (.command _)
  | commit => exact next h (.command _)
  | closeJob => exact next h (.command _)
  | abortJob => exact next h (.command _)
  | queryJob => exact next h (.command _)
  | loadSegment => exact next h (.command _)
  | stopUpload => exact next h (.command _)
  | proof => exact next h (.command _)
  | unknownCommand code => exact next h (.command code)
  | cmdWriteRefused code => exact next h (.command code)
  | proofCopyComplete =>
    simp only [exec, execProofCopyComplete] at h
    split at h
    · split at h
      · exact next h (.copyEnd (restServed_sameLabel _ _ _))
      · exact fault h
    · exact next h (.same (.refl s))
  | paramWrite v => exact next h (.same (paramWrite_sameLabel v s))
  | answerRead => exact next h (.same (answerRead_sameLabel s))
  | dataWrite v => exact next h (.same (dataWrite_sameLabel v s))
  | dataRead => exact next h (.same (dataRead_sameLabel s))
  | reportRead => exact next h (.same (reportRead_sameLabel s))
  | irqPendWrite v => exact next h (.same (irqPendWrite_sameLabel v s))
  | irqEnWrite v => exact next h (.same (irqEnWrite_sameLabel v s))
  | rowDoneLowRead => exact next h (.same (rowDoneLowRead_sameLabel s))
  | stickyWrite v => exact next h (.same (stickyWrite_sameLabel v s))
  | registerWriteDiscarded offset v => exact next h (writeRegister_event offset v s)
  | resetAsserted => exact next h (.reset _ (by simp))
  | resetReleased =>
    simp only [exec, execResetReleased, resetReleasedOp] at h
    split at h
    · exact next h (.reset _ (by simp))
    · exact next h (.same (.refl s))
  | powerOnClearComplete =>
    simp only [exec, execPowerOnClearComplete] at h
    split at h
    · rename_i a ha
      split at h
      · exact next h (.clearEnd a ha)
      · exact fault h
    · exact next h (.same (.refl s))
  | lineStep => exact next h .lineStep
  | hotChange b => exact next h (hotChange_event b s)
  | paperChange b => exact next h (.same (paperChange_sameLabel b s))
  | lineFetchEnd =>
    simp only [exec, execLineFetchEnd] at h
    split at h
    · split at h
      · exact next h .fetchEnd
      · exact fault h
    · exact next h (.same (.refl s))
  | shiftEnd => exact next h .shiftEnd
  | strobePulseEnd => exact next h .pulseEnd
  | hotHoldExpire => exact next h .holdExpired
  | bandComplete =>
    simp only [exec, execBandComplete] at h
    split at h
    · split at h
      · exact next h (.bandEnd (restServed_sameLabel _ _ _))
      · exact fault h
    · exact next h (.same (.refl s))
  | uploadStore =>
    simp only [exec, execUploadStore] at h
    split at h
    · split at h
      · split at h
        · refine next h ?_
          split
          · exact .access (.refl _)
          · exact .access (storeNow_sameLabel _ _ _)
        · exact fault h
      · exact next h (.same (.refl s))
    · exact next h (.same (.refl s))
  | uploadPrefetch =>
    simp only [exec, execUploadPrefetch] at h
    split at h
    · split at h
      · split at h
        · refine next h ?_
          split
          · exact .access (.refl _)
          · exact .access ⟨rfl, rfl, rfl, rfl, rfl, rfl, rfl, rfl, rfl, rfl, id⟩
        · exact fault h
      · exact next h (.same (.refl s))
    · exact next h (.same (.refl s))

end Sys2Proof.Machine
end

section
/-! Every step keeps the law of the job table (R1, R2, R3, R80). -/

namespace Sys2Proof.Machine

/-! ### The step, by its parts -/

/-- A step carries out the row at the front of the queue, or is the internal step. -/
theorem step_cases {s t : State} (h : step s = .next t) :
    (∃ rest, Event { s with pending := rest } t) ∨ t = s ∨ t = regrant (due (takeReading s)) ∨
      t = regrant (due (perform (grant (timers s)))) := by
  unfold step at h
  cases hp : s.pending with
  | cons i rest =>
    rw [hp] at h
    exact .inl ⟨rest, exec_event h⟩
  | nil =>
    rw [hp] at h
    simp only [tick] at h
    split at h
    · exact .inr (.inl (Host.Outcome.next.inj h).symm)
    · split at h
      · exact .inr (.inr (.inl (Host.Outcome.next.inj h).symm))
      · split at h
        · exact .inr (.inr (.inr (Host.Outcome.next.inj h).symm))
        · cases h

/-- From one lawful job table to another, and no job present in both has lost a row. -/
structure State.JobStep (s t : State) : Prop where
  lawful : t.jobsLawful
  advances : ∀ (tag : Byte) (j k : Job), s.jobs.find tag = some j → t.jobs.find tag = some k → j.Advances k

section
variable {s t : State} (h : s.jobsLawful)
include h

theorem jobStep_of_onward (ht : t.jobsLawful) (ho : s.jobs.Onward t.jobs) : s.JobStep t := by
  refine ⟨ht, fun tag j k hj hk => ?_⟩
  obtain ⟨i, hi, hik⟩ := ho k (holds_of_find hk)
  have hfind := ((jobsLawful_iff s).mp h).1.find_of_holds hi
  rw [hik.tag, find_tag hk, hj] at hfind
  exact Option.some.inj hfind ▸ hik

theorem jobStep_of_pair (ht : t.jobsLawful ∧ s.jobs.Onward t.jobs) : s.JobStep t := jobStep_of_onward h ht.1 ht.2

theorem SameLabel.jobsLawful (hs : SameLabel s t) : t.jobsLawful :=
  jobsLawful_congr h (by rw [hs.ring]) hs.jobs (by rw [hs.renderer]) fun hl => by rw [hs.head]; exact hl

theorem SameLabel.jobStep (hs : SameLabel s t) : s.JobStep t :=
  jobStep_of_onward h (hs.jobsLawful h) (.of_eq hs.jobs)

/-- An empty job table and an idle renderer are lawful, and no job stays. -/
theorem jobStep_of_empty (hj : t.jobs = ⟨none, none⟩) (hr : t.renderer = .idle) : s.JobStep t := by
  have hin : t.jobs.InEvent := by
    rw [hj]
    exact ⟨fun _ => rfl, fun _ hk => (by cases hk), fun _ hk => (by cases hk), fun _ hk => (by cases hk)⟩
  have hstand : t.jobs.Standing := by
    rw [hj]
    exact fun _ hk => (by cases hk)
  exact jobStep_of_onward h (State.Stands.lawful ⟨⟨hin, workLawful_of_none (by rw [hr]; rfl)⟩, hstand⟩) (hj ▸ .empty _)

end

/-- A change of the port alone, before and after, leaves a step of the job table one. -/
theorem State.JobStep.ofPort {s s' t t' : State} (h : s'.JobStep t') (hs : s'.jobs = s.jobs) (hj : t.jobs = t'.jobs)
    (hring : t.ring = t'.ring) (hr : t.renderer = t'.renderer) (hhead : t.head = t'.head) : s.JobStep t :=
  ⟨jobsLawful_congr h.lawful (by rw [hring]) hj (by rw [hr]) fun hl => by rw [hhead]; exact hl,
    fun tag j k hj' hk => h.advances tag j k (hs ▸ hj') (hj ▸ hk)⟩

/-! ### The job commands -/

/-- OPEN_JOB takes a record in the ranges of R2, of a tag that no job has, and beside no job or a CLOSED one (R6). -/
theorem openJobCheck_ok {ps : List Byte} {s : State} {p : OpenParams} (h : openJobCheck ps s = .ok p) :
    s.jobs.back = none ∧ (∀ j ∈ s.jobs.front, j.state = .closed ∧ j.tag ≠ p.tag) ∧
      1 ≤ p.length ∧ p.length ≤ 65535 ∧ p.trailing ≤ 4095 := by
  rw [openJobCheck_eq] at h
  split at h
  · cases h
  rename_i h1
  split at h
  · cases h
  split at h
  · cases h
  rename_i h3
  split at h
  · cases h
  rename_i h4
  split at h
  · cases h
  obtain rfl := Except.ok.inj h
  have hlt := le16_lt (ps.getD 1 0x00) (ps.getD 2 0x00)
  simp only [not_or, not_exists, not_and, not_not] at h1 h3 h4
  refine ⟨by simpa using h1.1, fun j hj => ⟨h1.2 j hj, h4 j hj⟩, ?_, ?_, ?_⟩
  · exact Nat.one_le_iff_ne_zero.mpr h3.1
  · exact Nat.le_of_lt_succ hlt
  · exact Nat.not_lt.mp h3.2.1

/-- The record of a job just opened (R7). -/
theorem OpenParams.job_bounded {p : OpenParams} (h1 : 1 ≤ p.length) (h2 : p.length ≤ 65535) (h3 : p.trailing ≤ 4095) :
    p.job.Bounded :=
  ⟨h1, h2, h3, Nat.zero_le _, Nat.zero_le _, Nat.zero_le _, fun h => (by cases h)⟩

/-- The head channel begins a job: a clear history line and a clear started flag (R111, R112). -/
def State.beginning (s : State) : State :=
  { s with head := { s.head with history := List.replicate s.headCfg.lineBytes 0x00, started := false } }

/-- OPEN_JOB taken into an empty table (R7). -/
theorem openJobAct_front {s : State} (hf : s.jobs.front = none) (hb : s.jobs.back = none) (p : OpenParams) :
    openJobAct p s = look (settle (s.withJobs ⟨some p.job, none⟩).beginning) := by
  simp only [openJobAct, hf, hb]
  rfl

/-- OPEN_JOB taken beside a front job (R7). -/
theorem openJobAct_back {s : State} {j : Job} (hf : s.jobs.front = some j) (p : OpenParams) :
    openJobAct p s = look (s.withJobs ⟨some j, some p.job⟩) := by
  simp only [openJobAct, hf]
  rfl

section
variable {s : State} (h : s.jobsLawful)
include h

/-- With an empty table no band is in work. -/
theorem work_none_of_empty (hf : s.jobs.front = none) (hb : s.jobs.back = none) : s.renderer.work = none := by
  cases hw : s.renderer.work with
  | none => rfl
  | some w =>
    obtain ⟨j, hj, -⟩ := ((jobsLawful_iff s).mp h).2.2 w hw
    rw [find_eq_none.mpr (by simp [hf, hb])] at hj
    cases hj

omit h in
/-- With no back job the job of a tag is the front job. -/
theorem find_of_alone {j k : Job} {a : Byte} (hf : s.jobs.front = some j) (hb : s.jobs.back = none)
    (hk : s.jobs.find a = some k) : k = j ∧ a = j.tag := by
  rcases find_eq_some.mp hk with ⟨hk', ht⟩ | ⟨-, hk', -⟩
  · obtain rfl := Option.some.inj (hf.symm.trans hk')
    exact ⟨rfl, ht.symm⟩
  · rw [hb] at hk'
    cases hk'

/-- OPEN_JOB beside a CLOSED job (R7). -/
theorem openBack_mid {ps : List Byte} {p : OpenParams} (hc : openJobCheck ps s = .ok p) {j : Job}
    (hf : s.jobs.front = some j) : (s.withJobs ⟨some j, some p.job⟩).JobsMid := by
  obtain ⟨hback, hfront, h1, h2, h3⟩ := openJobCheck_ok hc
  obtain ⟨hm, -⟩ := (jobsLawful_iff_mid s).mp h
  obtain ⟨hclosed, htag⟩ := hfront j hf
  refine ⟨⟨fun hn => (by cases hn), fun k hk => ?_, fun k hk => ?_, fun i hi k hk => ?_⟩, ?_⟩
  · exact Option.some.inj hk ▸ hm.table.front j hf
  · exact Option.some.inj hk ▸ ⟨OpenParams.job_bounded h1 h2 h3, rfl, rfl, rfl⟩
  · obtain rfl := Option.some.inj hi
    obtain rfl := Option.some.inj hk
    exact ⟨htag, by simp [hclosed]⟩
  · refine workLawful_of hm.work rfl fun w hw => ⟨w, hw, rfl, rfl, rfl, fun k hk => ⟨k, ?_, .refl k⟩⟩
    obtain ⟨rfl, ht⟩ := find_of_alone hf hback hk
    rw [ht]
    exact find_front rfl

/-- OPEN_JOB into an empty table (R7). -/
theorem openFront_stands {ps : List Byte} {p : OpenParams} (hc : openJobCheck ps s = .ok p) (hf : s.jobs.front = none) :
    (s.withJobs ⟨some p.job, none⟩).Stands := by
  obtain ⟨hback, -, h1, h2, h3⟩ := openJobCheck_ok hc
  have hb := OpenParams.job_bounded h1 h2 h3
  have hin : (JobTable.mk (some p.job) none).InEvent :=
    ⟨fun _ => rfl, fun j hj => Option.some.inj hj ▸ hb, fun _ hk => (by cases hk), fun _ _ _ hk => (by cases hk)⟩
  exact ⟨⟨hin, workLawful_of_none (show s.renderer.work = none from work_none_of_empty h hf hback)⟩, fun j hj =>
    Option.some.inj hj ▸ ⟨rfl, Nat.lt_of_lt_of_le h1 (Nat.le_add_right _ _)⟩⟩

/-- OPEN_JOB keeps the law; the tag of the new job was not in use. -/
theorem openJobAct_jobStep {ps : List Byte} {p : OpenParams} (hc : openJobCheck ps s = .ok p) :
    s.JobStep (openJobAct p s) := by
  obtain ⟨hback, -⟩ := openJobCheck_ok hc
  obtain ⟨-, hstay⟩ := (jobsLawful_iff_mid s).mp h
  cases hf : s.jobs.front with
  | none =>
    have hs : (settle (s.withJobs ⟨some p.job, none⟩).beginning).Stands :=
      settle_stands ((openFront_stands h hc hf).congr rfl rfl rfl)
    rw [openJobAct_front hf hback]
    refine ⟨State.Stands.lawful ⟨look_mid hs.mid, by rw [look_jobs]; exact hs.standing⟩, fun tag j k hj _ => ?_⟩
    rw [find_eq_none.mpr (by simp [hf, hback])] at hj
    cases hj
  | some j =>
    rw [openJobAct_back hf]
    refine ⟨(jobsLawful_iff_mid _).mpr ⟨look_mid (openBack_mid h hc hf), hstay.congr ?_ ?_⟩, fun tag i k hi hk => ?_⟩
    · rw [look_jobs]
      exact hf.symm
    · rw [look_head]
      exact id
    · rw [look_jobs] at hk
      obtain ⟨rfl, rfl⟩ := find_of_alone hf hback hi
      rw [State.withJobs_jobs, find_front rfl] at hk
      exact Option.some.inj hk ▸ .refl i

/-- A job of a tag changes in its state or its commit row: what each record keeps. -/
structure Job.Commits (j k : Job) : Prop where
  tag : k.tag = j.tag
  done : k.done = j.done
  length : k.length = j.length
  trailing : k.trailing = j.trailing
  rendered : k.rendered = j.rendered
  blankRows : k.blankRows = j.blankRows
  commitRow : j.commitRow ≤ k.commitRow ∧ k.commitRow ≤ j.length
  isAborting : k.isAborting = j.isAborting
  opened : k.state = .opened → j.state = .opened
  closed : k.state = .closed → k.commitRow = j.length

section
variable {tag : Byte} {f : Job → Job} (hf : ∀ j, s.jobs.holds j → j.tag = tag → j.Commits (f j))
include hf

theorem update_mid : (s.withJobs (s.jobs.update tag f)).JobsMid := by
  obtain ⟨hm, -⟩ := (jobsLawful_iff_mid s).mp h
  refine ⟨hm.table.update fun j hj ht => ?_, ?_⟩
  · have hk := hf j hj ht
    have hb := hm.table.bounded hj
    exact ⟨⟨hk.length ▸ hb.length_pos, hk.length ▸ hb.length_le, hk.trailing ▸ hb.trailing, hk.length ▸ hk.commitRow.2,
      hk.length ▸ hk.rendered ▸ hb.rendered, hk.blankRows ▸ hk.done ▸ hb.blankRows, fun h => hk.length ▸ hk.closed h⟩,
      hk.tag, hk.done, hk.blankRows, hk.isAborting, hk.opened⟩
  · refine workLawful_of hm.work rfl fun w hw => ⟨w, hw, rfl, rfl, rfl, fun j hj' => ⟨j.updateIf tag f, ?_, ?_⟩⟩
    · rw [State.withJobs_jobs, find_update fun j hj ht => (hf j hj ht).tag, Option.mem_def.mp hj']
      rfl
    · unfold Job.updateIf
      split
      · rename_i ht
        have hk := hf j (holds_of_find hj') ht
        exact ⟨fun hn => hk.isAborting.trans hn, hk.rendered, hk.length, hk.commitRow.1, hk.opened⟩
      · exact .refl j

/-- A job of a tag changes in its state or its commit row, and the renderer looks. -/
theorem look_update_jobStep : s.JobStep (look (s.withJobs (s.jobs.update tag f))) := by
  obtain ⟨-, hstay⟩ := (jobsLawful_iff_mid s).mp h
  have hcommits : ∀ j ∈ s.jobs.front, ∀ ht : j.tag = tag, j.Commits (f j) := fun j hj ht => hf j (.inl hj) ht
  refine jobStep_of_onward h ((jobsLawful_iff_mid _).mpr ⟨look_mid (update_mid h hf), fun k hk => ?_⟩) ?_
  · rw [look_jobs] at hk
    obtain ⟨j, hj, rfl⟩ := Option.map_eq_some_iff.mp hk
    obtain ⟨hd, ha⟩ := hstay j hj
    rw [look_head]
    unfold Job.updateIf
    split
    · rename_i ht
      have hk := hcommits j hj ht
      rw [hk.done, hk.length, hk.trailing, hk.isAborting]
      exact ⟨hd, ha⟩
    · exact ⟨hd, ha⟩
  · rw [look_jobs]
    refine .update fun j hj' ht => ?_
    have hk := hf j hj' ht
    exact ⟨hk.tag.symm, hk.done.ge, hk.rendered.ge, hk.commitRow.1, hk.length.symm, hk.trailing.symm⟩

end

omit h in
/-- The OPEN job is a job present in state OPEN (R1). -/
theorem openJob_eq_some {t : JobTable} {j : Job} (hj : t.openJob = some j) : t.holds j ∧ j.state = .opened := by
  unfold JobTable.openJob at hj
  split at hj
  · rename_i k hk
    obtain rfl := Option.some.inj hj
    obtain ⟨hf, ho⟩ := Option.filter_eq_some_iff.mp hk
    exact ⟨.inl hf, by simpa [Job.isOpen] using ho⟩
  · obtain ⟨hb, ho⟩ := Option.filter_eq_some_iff.mp hj
    exact ⟨.inr hb, by simpa [Job.isOpen] using ho⟩

/-- The job present with the tag of another is that job. -/
theorem eq_of_holds_tag {j k : Job} (hj : s.jobs.holds j) (hk : s.jobs.holds k) (ht : j.tag = k.tag) : j = k := by
  have hfind := ((jobsLawful_iff s).mp h).1.find_of_holds hj
  rw [ht, ((jobsLawful_iff s).mp h).1.find_of_holds hk] at hfind
  exact (Option.some.inj hfind).symm

omit h in
/-- COMMIT takes a row of the OPEN job from its commit row to its length (R8). -/
theorem commitCheck_ok {ps : List Byte} {x : Job × Nat} (hc : commitCheck ps s = .ok x) :
    s.jobs.openJob = some x.1 ∧ x.1.commitRow ≤ x.2 ∧ x.2 ≤ x.1.length := by
  unfold commitCheck at hc
  split at hc
  · cases hc
  rename_i j hj
  split at hc
  · cases hc
  dsimp only at hc
  split at hc
  · cases hc
  rename_i hlt
  obtain rfl := Except.ok.inj hc
  exact ⟨hj, Nat.not_lt.mp hlt, Nat.min_le_right _ _⟩

omit h in
theorem closeJobCheck_ok {ps : List Byte} {j : Job} (hc : closeJobCheck ps s = .ok j) : s.jobs.openJob = some j := by
  unfold closeJobCheck at hc
  split at hc
  · cases hc
  rename_i k hk
  split at hc
  · cases hc
  obtain rfl := Except.ok.inj hc
  exact hk

omit h in
/-- ABORT_JOB takes a job present that is not ABORTING (R16). -/
theorem abortJobCheck_ok {ps : List Byte} {j : Job} (hc : abortJobCheck ps s = .ok j) :
    s.jobs.find j.tag = some j ∧ j.isAborting = false := by
  unfold abortJobCheck at hc
  split at hc
  · cases hc
  split at hc
  · cases hc
  rename_i k hk
  split at hc
  · cases hc
  rename_i ha
  obtain rfl := Except.ok.inj hc
  exact ⟨find_tag hk ▸ hk, by simpa using ha⟩

/-- The record of a job committed to a row (R8). -/
def Job.committedTo (row : Nat) (j : Job) : Job := { j with commitRow := row }

theorem commits_committedTo {ps : List Byte} {x : Job × Nat} (hc : commitCheck ps s = .ok x) :
    ∀ j, s.jobs.holds j → j.tag = x.1.tag → j.Commits (j.committedTo x.2) := by
  obtain ⟨hopen, hle, hlen⟩ := commitCheck_ok hc
  obtain ⟨hholds, hstate⟩ := openJob_eq_some hopen
  intro j hj ht
  obtain rfl := eq_of_holds_tag h hj hholds ht
  exact ⟨rfl, rfl, rfl, rfl, rfl, rfl, ⟨hle, hlen⟩, rfl, id, fun hcl => by cases hstate.symm.trans hcl⟩

theorem commitAct_jobStep {ps : List Byte} {x : Job × Nat} (hc : commitCheck ps s = .ok x) :
    s.JobStep (commitAct x.1 x.2 s) := by
  unfold commitAct
  split
  · exact look_update_jobStep h (commits_committedTo h hc)
  · exact (SameLabel.refl s).jobStep h

/-- The record of a job closed (R9). -/
def Job.closing (j : Job) : Job := { j with state := .closed, commitRow := j.length }

theorem commits_closing {ps : List Byte} {j : Job} (hc : closeJobCheck ps s = .ok j) :
    ∀ k, s.jobs.holds k → k.tag = j.tag → k.Commits k.closing := by
  obtain ⟨hholds, hstate⟩ := openJob_eq_some (closeJobCheck_ok hc)
  intro k hk ht
  obtain rfl := eq_of_holds_tag h hk hholds ht
  exact ⟨rfl, rfl, rfl, rfl, rfl, rfl, ⟨(((jobsLawful_iff s).mp h).1.bounded hk).commitRow, Nat.le_refl _⟩,
    by simp [Job.isAborting, hstate, Job.closing], fun ho => (by cases ho), fun _ => rfl⟩

theorem closeJobAct_jobStep {ps : List Byte} {j : Job} (hc : closeJobCheck ps s = .ok j) : s.JobStep (closeJobAct j s) :=
  look_update_jobStep h (commits_closing h hc)

theorem abortJobAct_jobStep {ps : List Byte} {j : Job} (hc : abortJobCheck ps s = .ok j) : s.JobStep (abortJobAct j s) := by
  obtain ⟨hfind, ha⟩ := abortJobCheck_ok hc
  obtain ⟨hm, hstay⟩ := (jobsLawful_iff_mid s).mp h
  unfold abortJobAct
  split
  · rename_i hfront
    obtain ⟨k, hk, hkt⟩ := isFront_iff.mp hfront
    obtain rfl := eq_of_holds_tag h (.inl hk) (holds_of_find hfind) hkt
    split
    · rename_i hl
      exact jobStep_of_onward h (abortInFlight_lawful h _ hl) (abortInFlight_onward _ s)
    · obtain ⟨hmid, hstand⟩ := abortFrontAtOnce_mid hm hk .host
      exact jobStep_of_onward h (settle_stands ⟨hmid, hstand⟩).lawful
        ((abortFrontAtOnce_onward _ _ s).trans (.of_eq (settle_jobs _)))
  · rename_i hfront
    have hback : s.jobs.back = some j := by
      rcases holds_of_find hfind with hf | hb
      · exact absurd (isFront_iff.mpr ⟨j, hf, rfl⟩) hfront
      · exact hb
    obtain ⟨hjobs, hhead⟩ := abortBack_spec j s
    refine jobStep_of_onward h ((jobsLawful_iff_mid _).mpr ⟨abortBack_mid hm hback, hstay.congr ?_ ?_⟩) (abortBack_onward j s)
    · rw [hjobs]
    · rw [hhead]
      exact id

end

/-! ### Every event -/

/-- A command taken keeps the law of the job table. -/
theorem commanded_jobStep {ps : List Byte} {s t : State} (h : s.jobsLawful) (ht : Commanded ps s t) : s.JobStep t := by
  have completed : ∀ {u : State} (r : Reply), s.JobStep u → s.JobStep (complete r u) :=
    fun r hu => hu.ofPort rfl rfl rfl rfl rfl
  have same : ∀ {u : State}, u.jobs = s.jobs → u.renderer = s.renderer → u.ring.h = s.ring.h →
      u.head.mode = s.head.mode → s.JobStep u := fun hj hr hh hm =>
    jobStep_of_onward h (jobsLawful_congr h hh hj (by rw [hr]) fun hl => by rwa [lineInFlight_of_mode hm]) (.of_eq hj)
  cases ht with
  | answered r => exact completed r ((SameLabel.refl s).jobStep h)
  | setHead c hc => exact completed _ (same rfl rfl rfl rfl)
  | setBands p hc =>
    have hempty : s.jobs.front = none ∧ s.jobs.back = none := by
      unfold setBandsCheck at hc
      split at hc
      · rename_i he
        simpa [JobTable.isEmpty] using he
      · cases hc
    obtain ⟨hm, hstay⟩ := (jobsLawful_iff_mid s).mp h
    refine completed _ (jobStep_of_onward h ((jobsLawful_iff_mid _).mpr ⟨⟨hm.table, workLawful_of_none ?_⟩, hstay⟩) (.refl _))
    exact show s.renderer.work = none from work_none_of_empty h hempty.1 hempty.2
  | defineGlyph e hc => exact completed _ (same rfl rfl rfl rfl)
  | restoreGlyph code => exact completed _ (same rfl rfl rfl rfl)
  | openJob p hc => exact completed _ (openJobAct_jobStep h hc)
  | place p hc => exact completed _ (same rfl rfl rfl rfl)
  | withdraw handle hc => exact completed _ (same rfl rfl rfl rfl)
  | commit x hc => exact completed _ (commitAct_jobStep h hc)
  | closeJob j hc => exact completed _ (closeJobAct_jobStep h hc)
  | abortJob j hc => exact completed _ (abortJobAct_jobStep h hc)
  | loadSegment g =>
    refine completed _ ?_
    unfold loadSegmentAct
    split <;> exact same rfl rfl rfl rfl
  | stopUpload answer => exact completed _ (same rfl rfl rfl rfl)
  | proof c hc => exact same rfl rfl rfl rfl

theorem writeCmd_jobStep (code : Byte) {s : State} (h : s.jobsLawful) : s.JobStep (writeCmd code s) := by
  have ht := writeCmd_written code s
  generalize writeCmd code s = t at ht
  cases ht with
  | held => exact (SameLabel.refl s).jobStep h
  | refused => exact (SameLabel.jobStep h ⟨rfl, rfl, rfl, rfl, rfl, rfl, rfl, rfl, rfl, rfl, portLawful_sticky rfl rfl⟩)
  | softReset _ => exact jobStep_of_empty h rfl rfl
  | taken _ _ ht =>
    have htake : (take code s).jobsLawful := jobsLawful_congr h rfl rfl rfl id
    exact (commanded_jobStep htake ht).ofPort rfl rfl rfl rfl rfl

theorem finishBand_lawful {s : State} (h : s.jobsLawful) : (finishBand s).jobsLawful ∧ s.jobs.Onward (finishBand s).jobs := by
  cases hr : s.renderer with
  | rendering w =>
    rw [finishBand_eq hr]
    have h' : ({ s with mem := composeRest s w } : State).jobsLawful := jobsLawful_congr h rfl rfl rfl id
    exact bandDone_lawful h' (show w ∈ s.renderer.work by rw [hr]; rfl)
  | _ =>
    simp only [finishBand, hr]
    exact ⟨h, .refl _⟩

theorem look_lawful {s : State} (h : s.jobsLawful) : (look s).jobsLawful := by
  obtain ⟨hm, hs⟩ := (jobsLawful_iff_mid s).mp h
  exact (jobsLawful_iff_mid _).mpr ⟨look_mid hm, hs.congr (by rw [look_jobs]) fun hl => by rw [look_head]; exact hl⟩

theorem endProof_lawful {s : State} (h : s.jobsLawful) : (endProof s).jobsLawful ∧ s.jobs.Onward (endProof s).jobs := by
  cases hc : s.port.proof with
  | none =>
    simp only [endProof, hc]
    exact ⟨h, .refl _⟩
  | some c =>
    simp only [endProof, hc]
    refine ⟨look_lawful (jobsLawful_congr h rfl rfl rfl id), .of_eq ?_⟩
    rw [look_jobs]
    rfl

theorem event_jobStep {s t : State} (h : s.jobsLawful) (he : Event s t) : s.JobStep t := by
  have hp := perform_lawful h
  have hjobs := perform_jobs s
  have after : ∀ {u v : State}, SameLabel (perform s) u → (u.jobsLawful → v.jobsLawful ∧ u.jobs.Onward v.jobs) → s.JobStep v :=
    fun hu hv => by
      obtain ⟨hl, ho⟩ := hv (hu.jobsLawful hp)
      rw [hu.jobs, hjobs] at ho
      exact jobStep_of_onward h hl ho
  cases he with
  | same hs => exact hs.jobStep h
  | access hs => exact after hs fun hu => ⟨hu, .refl _⟩
  | command code => exact writeCmd_jobStep code h
  | reset phase _ => exact jobStep_of_empty h rfl rfl
  | clearEnd a _ =>
    refine after (.refl _) fun hu => ?_
    unfold finishClear
    split
    · exact ⟨jobsLawful_congr hu rfl rfl rfl id, .refl _⟩
    · exact ⟨hu, .refl _⟩
  | lineStep => exact jobStep_of_pair h (lineStepOp_lawful h)
  | hotReleased hs =>
    obtain ⟨hl, ho⟩ := releaseHold_lawful (hs.jobsLawful h)
    rw [hs.jobs] at ho
    exact jobStep_of_onward h hl ho
  | fetchEnd => exact after (.refl _) endFetch_lawful
  | shiftEnd => exact jobStep_of_pair h (endShift_lawful h)
  | pulseEnd => exact jobStep_of_pair h (endPulse_lawful h)
  | holdExpired => exact jobStep_of_pair h (expireHold_lawful h)
  | bandEnd hs => exact after hs finishBand_lawful
  | copyEnd hs => exact after hs endProof_lawful

/-- The ends that an access brings about, and the next grant, keep the law. -/
theorem regrant_due_lawful {s : State} (h : s.jobsLawful) :
    (regrant (due s)).jobsLawful ∧ s.jobs.Onward (regrant (due s)).jobs := by
  have chain : ∀ {t u : State}, t.jobsLawful ∧ s.jobs.Onward t.jobs →
      (t.jobsLawful → u.jobsLawful ∧ t.jobs.Onward u.jobs) → u.jobsLawful ∧ s.jobs.Onward u.jobs :=
    fun ht hu => ⟨(hu ht.1).1, ht.2.trans (hu ht.1).2⟩
  have hclear : (dueClear s).jobsLawful ∧ s.jobs.Onward (dueClear s).jobs := by
    unfold dueClear
    split
    · split
      · exact ⟨jobsLawful_congr h rfl rfl rfl id, .refl _⟩
      · exact ⟨h, .refl _⟩
    · exact ⟨h, .refl _⟩
  have hfetch : (dueFetch (dueClear s)).jobsLawful ∧ s.jobs.Onward (dueFetch (dueClear s)).jobs := by
    refine chain hclear fun h => ?_
    unfold dueFetch
    split
    · split
      · exact endFetch_lawful h
      · exact ⟨h, .refl _⟩
    · exact ⟨h, .refl _⟩
  have hband : (dueBand (dueFetch (dueClear s))).jobsLawful ∧ s.jobs.Onward (dueBand (dueFetch (dueClear s))).jobs := by
    refine chain hfetch fun h => ?_
    unfold dueBand
    split
    · exact finishBand_lawful h
    · exact ⟨h, .refl _⟩
  have hproof : (due s).jobsLawful ∧ s.jobs.Onward (due s).jobs := by
    refine chain hband fun h => ?_
    unfold due dueProof
    split
    · split
      · exact endProof_lawful h
      · exact ⟨h, .refl _⟩
    · exact ⟨h, .refl _⟩
  refine chain hproof fun h => ?_
  rw [regrant_arbiter]
  exact ⟨jobsLawful_congr h rfl rfl rfl id, .refl _⟩

theorem step_jobStep {s t : State} (h : s.jobsLawful) (hstep : step s = .next t) : s.JobStep t := by
  rcases step_cases hstep with ⟨rest, he⟩ | rfl | rfl | rfl
  · have hq : SameLabel s { s with pending := rest } := ⟨rfl, rfl, rfl, rfl, rfl, rfl, rfl, rfl, rfl, rfl, id⟩
    exact (event_jobStep (hq.jobsLawful h) he).ofPort rfl rfl rfl rfl rfl
  · exact (SameLabel.refl t).jobStep h
  · have htaken : (takeReading s).jobs = s.jobs := by
      unfold takeReading
      split <;> rfl
    obtain ⟨hl, ho⟩ := regrant_due_lawful (takeReading_lawful h)
    rw [htaken] at ho
    exact jobStep_of_onward h hl ho
  · obtain ⟨htimers, hon⟩ := timers_lawful h
    have hgrant : (grant (timers s)).jobsLawful :=
      jobsLawful_congr htimers (by simp) (by simp) (by simp) fun hl => by rw [grant_head]; exact hl
    obtain ⟨hl, ho⟩ := regrant_due_lawful (perform_lawful hgrant)
    rw [perform_jobs, grant_jobs] at ho
    exact jobStep_of_onward h hl (hon.trans ho)

/-- Settles O55: an invariant for the middle of an event, kept operation by operation, and the rows of a job do not fall. -/
theorem everyStepKeepsTheJobLaw : Obligations.EveryStepKeepsTheJobLaw := by
  intro s t h hstep
  have hj := step_jobStep h hstep
  refine ⟨hj.lawful, fun tag j k hf hk => ?_⟩
  have ha := hj.advances tag j k hf hk
  exact ⟨ha.done, ha.rendered, ha.commitRow, ha.length, ha.trailing⟩

end Sys2Proof.Machine
end

section
/-! Ring order (R66): the places of the ring, and what claiming, freeing and setting a band keep of the unbroken run. -/

namespace Sys2Proof.Machine

/-! ### The places of the ring (R65, R66) -/

section
variable {r : Ring} (hc : r.claim < r.n)
include hc

/-- The band so many places back, with the wrap written out. -/
theorem back_eq {d : Nat} (hd : d < r.n) : r.back d = if d < r.claim then r.claim - 1 - d else r.claim + r.n - 1 - d := by
  unfold Ring.back
  split
  · rename_i h
    rw [show r.claim + r.n - 1 - d = r.claim - 1 - d + r.n by omega, Nat.add_mod_right, Nat.mod_eq_of_lt (by omega)]
  · exact Nat.mod_eq_of_lt (by omega)

theorem back_lt {d : Nat} (hd : d < r.n) : r.back d < r.n := by
  rw [back_eq hc hd]
  split <;> omega

theorem back_inj {d e : Nat} (hd : d < r.n) (he : e < r.n) (h : r.back d = r.back e) : d = e := by
  rw [back_eq hc hd, back_eq hc he] at h
  split at h <;> split at h <;> omega

/-- Every band has its place. -/
theorem exists_place {i : Nat} (hi : i < r.n) : ∃ d < r.n, r.back d = i := by
  by_cases h : i < r.claim
  · exact ⟨r.claim - 1 - i, by omega, by rw [back_eq hc (by omega)]; split <;> omega⟩
  · exact ⟨r.claim + r.n - 1 - i, by omega, by rw [back_eq hc (by omega)]; split <;> omega⟩

/-- The claim index is the last place back. -/
theorem back_last : r.back (r.n - 1) = r.claim := by
  rw [back_eq hc (by omega)]
  split <;> omega

/-- The places counted from another claim index: one after the band at place d₀. -/
theorem back_setBack {r' : Ring} {d₀ : Nat} (hn : r'.n = r.n) (hd : d₀ < r.n) (hcl : r'.claim = (r.back d₀ + 1) % r.n)
    {e : Nat} (he : e < r.n) : r'.back e = if d₀ + e < r.n then r.back (d₀ + e) else r.back (d₀ + e - r.n) := by
  have hlt := back_lt hc hd
  have hcl' : r'.claim = if r.back d₀ + 1 < r.n then r.back d₀ + 1 else 0 := by
    rw [hcl]
    split
    · exact Nat.mod_eq_of_lt (by assumption)
    · rw [show r.back d₀ + 1 = r.n by omega, Nat.mod_self]
  have hc' : r'.claim < r'.n := by
    rw [hcl', hn]
    split <;> omega
  rw [back_eq hc' (hn ▸ he), hcl', hn]
  have hd₀ := back_eq hc hd
  by_cases h : d₀ + e < r.n
  · rw [if_pos h, back_eq hc h]
    split at hd₀ <;> rw [hd₀] <;> split <;> split <;> split <;> omega
  · rw [if_neg h, back_eq hc (by omega : d₀ + e - r.n < r.n)]
    split at hd₀ <;> rw [hd₀] <;> split <;> split <;> split <;> omega

/-- The places after a claim: the band claimed last, and then the places before it. -/
theorem back_claimed {r' : Ring} (hn : r'.n = r.n) (hcl : r'.claim = (r.claim + 1) % r.n) {e : Nat} (he : e < r.n) :
    r'.back e = if e = 0 then r.claim else r.back (e - 1) := by
  have hlast := back_last hc
  rw [← hlast] at hcl
  rw [back_setBack hc hn (by omega) hcl he]
  split
  · rw [if_pos (by omega : e = 0), show r.n - 1 + e = r.n - 1 by omega, hlast]
  · rw [if_neg (by omega), show r.n - 1 + e - r.n = e - 1 by omega]

end

/-! ### Ring order, band by band -/

/-- A band stands before a newer one in the run (R66). -/
def State.inOrder (s : State) (b c : Band) : Prop :=
  (b.job = c.job → b.first + b.count ≤ c.first) ∧ (b.job ≠ c.job → s.jobs.isFront b.job = true)

/-- The PRINTING band of an ABORTING front job, which may stand apart from the run (R70). -/
def State.stray (s : State) (b : Band) : Prop :=
  b.state = .printing ∧ ∃ j ∈ s.jobs.front, j.tag = b.job ∧ j.isAborting = true

/-- The bands stand in ring order (R66). -/
def State.ordered (s : State) : Prop :=
  ∀ d < s.ring.n, ∀ e < d, ∀ b ∈ s.ring.bandAt (s.ring.back d), s.olderThan b e

theorem olderThan_iff (s : State) (b : Band) (e : Nat) :
    s.olderThan b e ↔ ((s.ring.bandAt (s.ring.back e)).isSome = true ∨ s.stray b) ∧
      ∀ c ∈ s.ring.bandAt (s.ring.back e), s.inOrder b c := Iff.rfl

/-- Ring order is kept where each band keeps its rows and its job, and none is freed. -/
theorem ordered_of {s t : State} (h : s.ordered) (hn : t.ring.n = s.ring.n) (hcl : t.ring.claim = s.ring.claim)
    (hband : ∀ i b', t.ring.bandAt i = some b' → ∃ b, s.ring.bandAt i = some b ∧ b'.job = b.job ∧ b'.first = b.first ∧
      b'.count = b.count ∧ (s.stray b → t.stray b'))
    (hfront : ∀ a, s.jobs.isFront a = true → t.jobs.isFront a = true)
    (hkeep : ∀ i, (s.ring.bandAt i).isSome = true → (t.ring.bandAt i).isSome = true) : t.ordered := by
  have hback : t.ring.back = s.ring.back := by
    unfold Ring.back
    rw [hn, hcl]
  intro d hd e he b' hb'
  obtain ⟨b, hb, hj, hf, hco, hstray⟩ := hband _ _ hb'
  rw [hn] at hd
  rw [hback] at hb
  obtain ⟨hrun, hord⟩ := h d hd e he b hb
  refine ⟨?_, fun c' hc' => ?_⟩
  · rw [hback]
    exact hrun.imp (hkeep _) hstray
  · obtain ⟨c, hc, hj', hf', -, -⟩ := hband _ _ hc'
    rw [hback] at hc
    obtain ⟨hsame, hother⟩ := hord c hc
    rw [hj, hj', hf, hco, hf']
    exact ⟨hsame, fun hne => hfront _ (hother hne)⟩

theorem bandAt_setBand (s : State) (i k : Nat) (b : Option Band) :
    (s.setBand i b).ring.bandAt k = if k = i ∧ i < s.ring.bands.length then b else s.ring.bandAt k := by
  simp only [Ring.bandAt, State.setBand_ring, List.getElem?_set]
  by_cases hk : i = k
  · subst hk
    by_cases hi : i < s.ring.bands.length
    · simp [hi]
    · simp [hi]
  · simp [hk, Ne.symm hk]

/-- The oldest band of the run becomes FREE. -/
theorem ordered_free {s : State} (h : s.ordered) {i : Nat}
    (hold : ∀ d < s.ring.n, ∀ e < d, s.ring.back e = i → s.ring.bandAt (s.ring.back d) = none) :
    (s.setBand i none).ordered := by
  have hsub : ∀ k b, (s.setBand i none).ring.bandAt k = some b → s.ring.bandAt k = some b := by
    intro k b hb
    rw [bandAt_setBand] at hb
    split at hb
    · cases hb
    · exact hb
  intro d hd e he b hb
  have hb' := hsub _ _ hb
  obtain ⟨hrun, hord⟩ := h d hd e he b hb'
  refine ⟨hrun.imp_left fun hs => ?_, fun c hc => hord c (hsub _ _ hc)⟩
  have hne : s.ring.back e ≠ i := fun heq =>
    absurd ((hold d hd e he heq).symm.trans hb') (by simp)
  rw [bandAt_setBand, if_neg fun hk => hne hk.1]
  exact hs

/-- The bands after a claim. -/
theorem bandAt_claimBand {s : State} (c : Chosen) (hlen : s.ring.claim < s.ring.bands.length) (k : Nat) :
    (claimBand c s).ring.bandAt k =
      if k = s.ring.claim then some ⟨.rendering, c.job, c.first, c.count⟩ else s.ring.bandAt k := by
  have h := bandAt_setBand s s.ring.claim k (some ⟨.rendering, c.job, c.first, c.count⟩)
  simp only [hlen, and_true] at h
  exact h

/-- A band is claimed: it is newer than every other (R66). -/
theorem ordered_claim {s : State} {c : Chosen} (h : s.ordered) (hc : s.ring.claim < s.ring.n)
    (hlen : s.ring.claim < s.ring.bands.length)
    (hnew : ∀ i b, s.ring.bandAt i = some b → s.inOrder b ⟨.rendering, c.job, c.first, c.count⟩) :
    (claimBand c s).ordered := by
  have hback : ∀ e < s.ring.n, (claimBand c s).ring.back e = if e = 0 then s.ring.claim else s.ring.back (e - 1) :=
    fun e he => back_claimed (r' := (claimBand c s).ring) hc rfl rfl he
  have hplace : ∀ e < s.ring.n, e ≠ 0 → (claimBand c s).ring.bandAt ((claimBand c s).ring.back e) =
      s.ring.bandAt (s.ring.back (e - 1)) := by
    intro e he h0
    rw [hback e he, if_neg h0, bandAt_claimBand c hlen, if_neg]
    intro heq
    rw [← back_last hc] at heq
    have := back_inj hc (by omega) (by omega) heq
    omega
  intro d hd e he b hb
  have hd' : d < s.ring.n := hd
  rw [hplace d hd' (by omega)] at hb
  rw [olderThan_iff]
  by_cases h0 : e = 0
  · have hnew0 : (claimBand c s).ring.bandAt ((claimBand c s).ring.back e) =
        some ⟨.rendering, c.job, c.first, c.count⟩ := by
      rw [hback e (by omega), if_pos h0, bandAt_claimBand c hlen, if_pos rfl]
    rw [hnew0]
    refine ⟨.inl rfl, fun x hx => ?_⟩
    obtain rfl := Option.some.inj hx
    exact hnew _ b hb
  · rw [hplace e (by omega) h0]
    exact h (d - 1) (by omega) (e - 1) (by omega) b hb

/-! ### Freeing a job's bands (R70) -/

/-- The claim index set back: every band is FREE, or it is the one after the newest band left. -/
theorem claimSetBack_cases {r r' : Ring} (h : r.claimSetBack r') :
    ((∀ d < r.n, r'.bandAt (r.back d) = none) ∧ r'.claim = r.claim) ∨
    ∃ d₀ < r.n, (r'.bandAt (r.back d₀)).isSome = true ∧ (∀ e < d₀, r'.bandAt (r.back e) = none) ∧
      r'.claim = (r.back d₀ + 1) % r.n := by
  classical
  by_cases hall : ∀ d < r.n, r'.bandAt (r.back d) = none
  · exact .inl ⟨hall, h.1 hall⟩
  have hex : ∃ d, d < r.n ∧ (r'.bandAt (r.back d)).isSome = true := by
    by_contra hno
    exact hall fun d hd => by
      by_contra hne
      exact hno ⟨d, hd, Option.isSome_iff_ne_none.mpr hne⟩
  have hfirst : ∀ e < Nat.find hex, r'.bandAt (r.back e) = none := fun e he => by
    by_contra hne
    exact Nat.find_min hex he ⟨he.trans (Nat.find_spec hex).1, Option.isSome_iff_ne_none.mpr hne⟩
  exact .inr ⟨_, (Nat.find_spec hex).1, (Nat.find_spec hex).2, hfirst, h.2 _ (Nat.find_spec hex).1 (Nat.find_spec hex).2 hfirst⟩

/-- Bands are freed, the claim index is set back to the one after the newest left, and what is left is one unbroken run
again, where of two bands left no band between them was freed. -/
theorem ordered_setBack {s u : State} (h : s.ordered) (hc : s.ring.claim < s.ring.n) (hn : u.ring.n = s.ring.n)
    (hcl : s.ring.claimSetBack u.ring) (hsub : ∀ i b, u.ring.bandAt i = some b → s.ring.bandAt i = some b)
    (hfront : ∀ i b, u.ring.bandAt i = some b → s.jobs.isFront b.job = true → u.jobs.isFront b.job = true)
    (hstray : ∀ i b, u.ring.bandAt i = some b → s.stray b → u.stray b)
    (hgap : ∀ i k l b c x, u.ring.bandAt i = some b → u.ring.bandAt k = some c → s.ring.bandAt l = some x →
      s.inOrder b x → s.inOrder x c → (u.ring.bandAt l).isSome = true ∨ u.stray b) : u.ordered := by
  obtain ⟨hall, hclaim⟩ | ⟨d₀, hd₀, hsome, hfirst, hclaim⟩ := claimSetBack_cases hcl
  · have hback : u.ring.back = s.ring.back := by
      unfold Ring.back
      rw [hn, hclaim]
    intro d hd e he b hb
    rw [hback, hall d (hn ▸ hd)] at hb
    cases hb
  have hback : ∀ e < s.ring.n, u.ring.back e =
      if d₀ + e < s.ring.n then s.ring.back (d₀ + e) else s.ring.back (d₀ + e - s.ring.n) :=
    fun e he => back_setBack hc hn hd₀ hclaim he
  obtain ⟨c₀, hc₀⟩ := Option.isSome_iff_exists.mp hsome
  intro d hd e he b hb
  have hd' : d < s.ring.n := hn ▸ hd
  have hdn : d₀ + d < s.ring.n := by
    by_contra hge
    rw [hback d hd', if_neg hge, hfirst _ (by omega)] at hb
    cases hb
  rw [hback d hd', if_pos hdn] at hb
  have hb' := hsub _ _ hb
  obtain ⟨hrun, hord⟩ := h (d₀ + d) hdn (d₀ + e) (by omega) b hb'
  have hpe : u.ring.back e = s.ring.back (d₀ + e) := by rw [hback e (by omega), if_pos (by omega)]
  rw [olderThan_iff, hpe]
  refine ⟨?_, fun c hc => ?_⟩
  · by_cases h0 : e = 0
    · subst h0
      exact .inl hsome
    · rcases hrun with hrun | hrun
      · obtain ⟨x, hx⟩ := Option.isSome_iff_exists.mp hrun
        have hxc := (h (d₀ + e) (by omega) d₀ (by omega) x hx).2 c₀ (hsub _ _ hc₀)
        exact hgap _ _ _ b c₀ x hb hc₀ hx (hord x hx) hxc
      · exact .inr (hstray _ b hb hrun)
  · obtain ⟨hsame, hother⟩ := hord c (hsub _ _ hc)
    exact ⟨hsame, fun hne => hfront _ b hb (hother hne)⟩

end Sys2Proof.Machine
end

section
/-! The label in the middle of an event: jobs, placements, bands and the band in work agree (R24, R25, R64, R66, R76, R79). -/

namespace Sys2Proof.Machine

/-! ### The law in the middle of an event -/

/-- The back job has bands, or rows rendered, only once the front job has no row left to render (R79). -/
def State.backWaits (s : State) : Prop :=
  ∀ k ∈ s.jobs.back, s.hasBegun k → ∀ j ∈ s.jobs.front, j.isAborting = true ∨ j.rendered = j.length

/-- Every band is lawful (R64, R66, R67, R69). -/
def State.bandsLawful (s : State) : Prop := ∀ i b, s.ring.bandAt i = some b → s.bandLawful i b

/-- The band in work is RENDERING (R64). -/
def State.working (s : State) : Prop := ∀ w ∈ s.renderer.work, ∃ b ∈ s.ring.bandAt w.band, b.state = .rendering

/-- The law of the label in the middle of an event. -/
structure State.Table (s : State) : Prop where
  config : s.configLawful
  mid : s.JobsMid
  placements : s.placementsLawful
  bands : s.bandsLawful
  working : s.working
  ordered : s.ordered
  waits : s.backWaits
  composed : s.composeLawful

theorem lt_of_bandAt {r : Ring} {i : Nat} {b : Band} (h : r.bandAt i = some b) : i < r.bands.length := by
  by_contra hn
  simp [Ring.bandAt, List.getElem?_eq_none (Nat.not_lt.mp hn)] at h

theorem hasBegun_iff (s : State) (k : Job) :
    s.hasBegun k ↔ 0 < k.rendered ∨ ∃ i b, s.ring.bandAt i = some b ∧ b.job = k.tag := by
  refine or_congr Iff.rfl ?_
  simp only [List.any_eq_true]
  constructor
  · rintro ⟨x, hx, hb⟩
    obtain ⟨i, hi, hix⟩ := List.mem_iff_getElem.mp hx
    cases x with
    | none => simp at hb
    | some b => exact ⟨i, b, by simp [Ring.bandAt, hi, hix], by simpa using hb⟩
  · rintro ⟨i, b, hb, ht⟩
    have hi := lt_of_bandAt hb
    refine ⟨s.ring.bands[i], List.getElem_mem hi, ?_⟩
    have : s.ring.bands[i] = some b := by simpa [Ring.bandAt, hi] using hb
    simp [this, ht]

namespace State.Table
variable {s : State} (h : s.Table)
include h

theorem length : s.ring.bands.length = s.ring.n := h.config.2.2.2.2.2.2.1

theorem claim_lt : s.ring.claim < s.ring.n := h.config.2.2.2.2.2.2.2

/-- Two bands hold no row in common (R64): of two places one is further back. -/
theorem apart {i k : Nat} {b c : Band} (hb : s.ring.bandAt i = some b) (hc : s.ring.bandAt k = some c) (hne : i ≠ k)
    (hj : b.job = c.job) : b.first + b.count ≤ c.first ∨ c.first + c.count ≤ b.first := by
  obtain ⟨d, hd, rfl⟩ := exists_place h.claim_lt (h.length ▸ lt_of_bandAt hb)
  obtain ⟨e, he, rfl⟩ := exists_place h.claim_lt (h.length ▸ lt_of_bandAt hc)
  rcases Nat.lt_trichotomy d e with hlt | rfl | hlt
  · exact .inr (((h.ordered e he d hlt c hc).2 b hb).1 hj.symm)
  · exact absurd rfl hne
  · exact .inl (((h.ordered d hd e hlt b hb).2 c hc).1 hj)

theorem ringLawful : s.ringLawful :=
  ⟨fun i _ b hb => h.bands i b hb, fun _ _ _ hk _ hb _ hc hj => h.apart hb hc (Nat.ne_of_gt hk) hj, h.working⟩

theorem runLawful : s.runLawful := ⟨h.ordered, h.waits⟩

/-- The record of the band in work. -/
theorem work_record {w : Work} (hw : w ∈ s.renderer.work) :
    s.ring.bandAt w.band = some ⟨.rendering, w.job, w.first, w.count⟩ := by
  obtain ⟨b, hb, hst⟩ := h.working w hw
  obtain ⟨-, -, j, -, hr, -⟩ := h.bands w.band b hb
  obtain ⟨-, v, hv, -, hj, hf, hc⟩ := hr hst
  obtain rfl : v = w := Option.some.inj (hv.symm.trans hw)
  rw [hj, hf, hc, ← hst]
  exact hb

end State.Table

theorem table_of_labelLawful {s : State} (h : s.labelLawful) : s.Table where
  config := h.config
  mid := ((jobsLawful_iff_mid s).mp h.jobs).1
  placements := h.placements
  bands := fun i b hb => h.ring.1 i (lt_of_bandAt hb) b hb
  working := h.ring.2.2
  ordered := h.run.1
  waits := h.run.2
  composed := h.composed

/-! ### What each part of the law looks at -/

/-- The second record keeps for a band what the first gives it. -/
structure Job.BandsAs (b : Band) (j k : Job) : Prop where
  aborting : b.state ≠ .printing → j.isAborting = false → k.isAborting = false
  rendered : j.rendered ≤ k.rendered
  done : b.state ≠ .rendering → k.done < b.first + b.count
  printing : b.state = .printing → b.first ≤ k.done

/-- The bands stay lawful where each is one of before, in the same place of the ring and with a job that still allows it. -/
theorem bandLawful_of {s t : State} {i : Nat} {b : Band} (h : s.bandLawful i b) (hh : t.ring.h = s.ring.h)
    (hjob : ∀ j, s.jobs.find b.job = some j → ∃ k, t.jobs.find b.job = some k ∧ Job.BandsAs b j k)
    (hfront : b.state = .printing → s.jobs.isFront b.job = true → t.jobs.isFront b.job = true)
    (hwork : b.state = .rendering → ∀ w ∈ s.renderer.work, w.band = i → w.job = b.job →
      ∃ w' ∈ t.renderer.work, w'.band = w.band ∧ w'.job = w.job ∧ w'.first = w.first ∧ w'.count = w.count) :
    t.bandLawful i b := by
  obtain ⟨h1, h2, j, hj, hr, hc, hready, hprint⟩ := h
  obtain ⟨k, hk, hjk⟩ := hjob j hj
  refine ⟨h1, hh ▸ h2, k, hk, fun hst => ?_, fun hst => ?_, fun hst => ?_, fun hst => ?_⟩
  · obtain ⟨ha, w, hw, e1, e2, e3, e4⟩ := hr hst
    obtain ⟨w', hw', f1, f2, f3, f4⟩ := hwork hst w hw e1 e2
    exact ⟨hjk.aborting (by simp [hst]) ha, w', hw', f1.trans e1, f2.trans e2, f3.trans e3, f4.trans e4⟩
  · exact ⟨(hc hst).1.trans hjk.rendered, hjk.done hst⟩
  · exact hjk.aborting (by simp [hst]) (hready hst)
  · exact ⟨hfront hst (hprint hst).1, hjk.printing hst⟩

/-- The placements stay lawful where each is one of before, or one of before ACTIVE now, of a job with the same length. -/
theorem placementsLawful_of {s t : State} (h : s.placementsLawful)
    (hdistinct : t.placements.Pairwise fun p q => p.handle ≠ q.handle)
    (hsub : ∀ p' ∈ t.placements, ∃ p ∈ s.placements, ∃ active, p' = { p with active := active })
    (hjob : ∀ p' ∈ t.placements, ∀ j, s.jobs.find p'.job = some j → j.isAborting = false →
      ∃ k, t.jobs.find p'.job = some k ∧ k.isAborting = false ∧ k.length = j.length) : t.placementsLawful := by
  refine ⟨hdistinct, fun p' hp' => ?_⟩
  obtain ⟨p, hp, active, rfl⟩ := hsub p' hp'
  obtain ⟨h1, h2, h3, h4, h5, j, hj, ha, ht, hl⟩ := h.2 p hp
  obtain ⟨k, hk, hka, hkl⟩ := hjob _ hp' j hj ha
  exact ⟨h1, h2, h3, h4, h5, k, hk, hka, hkl ▸ ht, hkl ▸ hl⟩

/-- What a cursor in range looks at: the placements of the copies still to draw, the width of a line, and the band's rows. -/
theorem inRange_of {s t : State} {w : Work} (h : w.inRange s) (hcfg : t.headCfg = s.headCfg)
    (hp : ∀ c ∈ w.todo, ∀ p, findPlacement s.placements c.handle = some p → findPlacement t.placements c.handle = some p) :
    w.inRange t := by
  obtain ⟨htodo, hcur⟩ := h
  have hx : ∀ x, w.current s.placements = some x → w.current t.placements = some x := by
    intro x hx
    obtain ⟨rest, hr, hf⟩ := current_eq_some hx
    have := hp x.1 (by rw [hr]; exact List.mem_cons_self ..) x.2 hf
    simp [Work.current, hr, this]
  refine ⟨fun c hc => ?_, ?_⟩
  · obtain ⟨p, hf, hd⟩ := htodo c hc
    exact ⟨p, hp c hc p hf, by rw [hcfg]; exact hd⟩
  · cases hcu : w.cursor with
    | clearing n =>
      simp only [Work.cursorInRange, hcu, Work.lineBytes] at hcur ⊢
      rwa [hcfg]
    | reading laid =>
      simp only [Work.cursorInRange, hcu] at hcur ⊢
      obtain ⟨x, hxs, hlen⟩ := hcur
      exact ⟨x, hx x hxs, hlen⟩
    | drawing laid row src col held =>
      simp only [Work.cursorInRange, hcu] at hcur ⊢
      obtain ⟨x, hxs, hrest⟩ := hcur
      exact ⟨x, hx x hxs, by rw [hcfg]; exact hrest⟩
    | finished => simp only [Work.cursorInRange, hcu]

/-- The band in work stays lawful where the placements still to draw stay. -/
theorem composeLawful_of {s t : State} (h : s.composeLawful) (hcfg : t.headCfg = s.headCfg)
    (hw : ∀ w ∈ t.renderer.work, w ∈ s.renderer.work)
    (hp : ∀ w ∈ t.renderer.work, ∀ c ∈ w.todo, ∀ p, findPlacement s.placements c.handle = some p → p.active = true →
      p.job = w.job → findPlacement t.placements c.handle = some p) : t.composeLawful := by
  intro w hmem
  obtain ⟨hr, hin, htodo⟩ := h w (hw w hmem)
  have hkeep : ∀ c ∈ w.todo, ∀ p, findPlacement s.placements c.handle = some p → findPlacement t.placements c.handle = some p := by
    intro c hc p hf
    obtain ⟨q, hq, ha, hj⟩ := htodo c hc
    obtain rfl : p = q := Option.some.inj (hf.symm.trans hq)
    exact hp w hmem c hc p hf ha hj
  refine ⟨inRange_of hr hcfg hkeep, hin, fun c hc => ?_⟩
  obtain ⟨q, hq, ha, hj⟩ := htodo c hc
  exact ⟨q, hkeep c hc q hq, ha, hj⟩

/-- The law in the middle of an event looks at jobs, placements, bands, renderer and head configuration. -/
theorem State.Table.congr {s t : State} (h : s.Table) (hj : t.jobs = s.jobs) (hp : t.placements = s.placements)
    (hring : t.ring = s.ring) (hr : t.renderer = s.renderer) (hcfg : t.headCfg = s.headCfg) : t.Table where
  config := ⟨hcfg ▸ h.config.1, by
    have := h.config.2
    unfold State.zoneLawful at *
    rwa [hring, hcfg]⟩
  mid := h.mid.congr (by rw [hring]) hj (by rw [hr])
  placements := placementsLawful_of h.placements (hp ▸ h.placements.1) (fun p hp' => ⟨p, hp ▸ hp', p.active, rfl⟩)
    fun p _ j hj' ha => ⟨j, hj ▸ hj', ha, rfl⟩
  bands := fun i b hb => by
    rw [hring] at hb
    obtain ⟨h1, h2, j, hjob, hr', hc, hready, hprint⟩ := h.bands i b hb
    exact ⟨h1, hring ▸ h2, j, hj ▸ hjob, hr ▸ hr', hc, hready, hj ▸ hprint⟩
  working := fun w hw => hring ▸ h.working w (hr ▸ hw)
  ordered := by
    have := h.ordered
    unfold State.ordered State.olderThan at *
    rwa [hring, hj]
  waits := by
    have := h.waits
    unfold State.backWaits State.hasBegun at *
    rwa [hring, hj]
  composed := composeLawful_of h.composed hcfg (fun w hw => hr ▸ hw) fun _ _ _ _ _ hf _ _ => hp ▸ hf

end Sys2Proof.Machine
end

section
/-! A look, what an abort or a completion frees, and a row consumed keep the label's law in the middle of an event. -/

namespace Sys2Proof.Machine

/-! ### The claim of a band (R66, R79, R84) -/

/-- The placement of a handle in a list that is mapped with the handles kept. -/
theorem findPlacement_map {ps : List Placement} {f : Placement → Placement} (hf : ∀ p, (f p).handle = p.handle) (a : Nat) :
    findPlacement (ps.map f) a = (findPlacement ps a).map f := by
  simp only [findPlacement, List.find?_map]
  congr 1
  exact congrArg (List.find? · ps) (funext fun p => by simp [hf])

/-- With distinct handles a placement is the one of its handle (R23). -/
theorem findPlacement_mem {ps : List Placement} (hd : ps.Pairwise fun p q => p.handle ≠ q.handle) {p : Placement}
    (hp : p ∈ ps) : findPlacement ps p.handle = some p := by
  induction ps with
  | nil => cases hp
  | cons q qs ih =>
    obtain ⟨hq, hqs⟩ := List.pairwise_cons.mp hd
    rcases List.mem_cons.mp hp with rfl | hp
    · simp [findPlacement]
    · have hne := hq p hp
      simpa [findPlacement, hne] using ih hqs hp

theorem findPlacement_some {ps : List Placement} {a : Nat} {p : Placement} (h : findPlacement ps a = some p) :
    p ∈ ps ∧ p.handle = a :=
  ⟨List.mem_of_find?_eq_some h, by simpa using List.find?_some h⟩

/-- The part of a copy to draw in a band that the copy meets has a row and a column (R86). -/
theorem drawnCopies_drawable {s : State} {w : Work} {p : Placement} {c : CopyRef} (hcount : 1 ≤ w.count)
    (hw : 1 ≤ p.width) (hh : 1 ≤ p.height) (hcodes : p.hasCodes = true)
    (hc : c ∈ p.drawnCopies s.headCfg.dots w.first (w.first + w.count))
    (hfind : findPlacement s.placements p.handle = some p) : w.drawable s c ∧ c.handle = p.handle := by
  unfold Placement.drawnCopies at hc
  split at hc
  swap
  · cases hc
  rename_i hleft
  obtain ⟨k, hk, rfl⟩ := List.mem_map.mp hc
  have hmeet := (List.mem_filter.mp hk).2
  simp only [Placement.copyMeets, decide_eq_true_eq] at hmeet
  refine ⟨⟨p, hfind, ?_, ?_, hcodes⟩, rfl⟩
  · simp only [Work.firstRow, Work.endRow]
    omega
  · simp only [Placement.byteCount, Placement.limit]
    omega

/-- A claim begins its work in range (R76, R84). -/
theorem claimBand_composed {s : State} {c : Chosen} (hdots : 1 ≤ s.headCfg.lineBytes) (hcount : 1 ≤ c.count)
    (hp : s.placementsLawful) : (claimBand c s).composeLawful := by
  intro w hw
  obtain rfl := Option.some.inj hw
  have hhandle : ∀ p : Placement, (if inDrawList c p then { p with active := true } else p).handle = p.handle := by
    intro p
    split <;> rfl
  have hdistinct : (claimBand c s).placements.Pairwise fun p q => p.handle ≠ q.handle := by
    rw [claimBand_placements, List.pairwise_map]
    exact hp.1.imp fun {p q} hne => by rw [hhandle, hhandle]; exact hne
  have htodo : ∀ x ∈ (s.placements.filter (inDrawList c)).flatMap fun p =>
      p.drawnCopies s.headCfg.dots c.first (c.first + c.count), ∃ p ∈ s.placements, inDrawList c p = true ∧
        x ∈ p.drawnCopies s.headCfg.dots c.first (c.first + c.count) ∧
        findPlacement (claimBand c s).placements p.handle = some { p with active := true } := by
    intro x hx
    obtain ⟨p, hmem, hxp⟩ := List.mem_flatMap.mp hx
    obtain ⟨hps, hin⟩ := List.mem_filter.mp hmem
    refine ⟨p, hps, hin, hxp, ?_⟩
    rw [claimBand_placements, findPlacement_map hhandle, findPlacement_mem hp.1 hps]
    simp [hin]
  refine ⟨⟨fun x hx => ?_, ?_⟩, rfl, fun x hx => ?_⟩
  · obtain ⟨p, hps, -, hxp, hfind⟩ := htodo x hx
    obtain ⟨-, h2, h3, h4, -⟩ := hp.2 p hps
    exact (drawnCopies_drawable (s := claimBand c s) (p := { p with active := true }) hcount h2 h3 h4 hxp hfind).1
  · exact ⟨Nat.one_le_iff_ne_zero.mpr (Nat.mul_ne_zero (by omega) (by omega)), Nat.le_refl _⟩
  · obtain ⟨p, hps, hin, hxp, hfind⟩ := htodo x hx
    obtain ⟨-, h2, h3, h4, -⟩ := hp.2 p hps
    have hx' := (drawnCopies_drawable (s := claimBand c s) (p := { p with active := true })
      (w := ⟨s.ring.claim, c.job, c.first, c.count, [], [], .finished⟩) hcount h2 h3 h4 hxp hfind).2
    refine ⟨_, hx' ▸ hfind, rfl, ?_⟩
    simp only [inDrawList, Bool.and_eq_true, decide_eq_true_eq] at hin
    exact hin.1

section
variable {s : State} (h : s.Table)
include h

theorem State.Table.lineBytes_pos : 1 ≤ s.headCfg.lineBytes := by
  obtain ⟨-, -, h3, -⟩ := h.config.1
  unfold HeadConfig.lineBytes
  omega

theorem State.Table.h_pos : 1 ≤ s.ring.h := by
  have := h.config.2.2.1
  simp only [List.mem_cons, List.not_mem_nil, or_false] at this
  omega

/-- A band is of a job present. -/
theorem State.Table.band_job {i : Nat} {b : Band} (hb : s.ring.bandAt i = some b) :
    ∃ j, s.jobs.find b.job = some j ∧ s.jobs.holds j ∧ j.tag = b.job := by
  obtain ⟨-, -, j, hj, -⟩ := h.bands i b hb
  exact ⟨j, hj, holds_of_find hj, find_tag hj⟩

/-- With the renderer at rest no band is RENDERING. -/
theorem State.Table.not_rendering {i : Nat} {b : Band} (hb : s.ring.bandAt i = some b) (hw : s.renderer.work = none) :
    b.state ≠ .rendering := by
  intro hst
  obtain ⟨-, -, j, -, hr, -⟩ := h.bands i b hb
  obtain ⟨-, w, hw', -⟩ := hr hst
  rw [hw] at hw'
  cases hw'

/-- The band to claim is newer than every band (R66, R79). -/
theorem claim_inOrder {j : Job} (hj : s.jobs.toRender = some j) (hw : s.renderer.work = none) {i : Nat} {b : Band}
    (hb : s.ring.bandAt i = some b) (n : Nat) : s.inOrder b ⟨.rendering, j.tag, j.rendered, n⟩ := by
  obtain ⟨hholds, ha, hlt⟩ := toRender_holds h.mid.table hj
  obtain ⟨k, hk, hkh, hkt⟩ := h.band_job hb
  obtain ⟨-, -, k', hk', -, hc, -⟩ := h.bands i b hb
  obtain rfl : k = k' := Option.some.inj (hk.symm.trans hk')
  refine ⟨fun heq => ?_, fun hne => ?_⟩
  · have hkj : k = j := by
      rw [heq, h.mid.table.find_of_holds hholds] at hk
      exact (Option.some.inj hk).symm
    subst hkj
    exact (hc (h.not_rendering hb hw)).1
  · rcases hkh with hf | hback
    · exact isFront_iff.mpr ⟨k, hf, hkt⟩
    · rcases hholds with hf | hb'
      · have hbegun : s.hasBegun k := (hasBegun_iff s k).mpr (.inr ⟨i, b, hb, hkt.symm⟩)
        rcases h.waits k hback hbegun j hf with ha' | hr
        · simp [ha] at ha'
        · omega
      · obtain rfl := Option.some.inj (hback.symm.trans hb')
        exact absurd hkt.symm hne

/-- A renderer at rest may rest in another way. -/
theorem State.Table.resting {r : Renderer} (hw : s.renderer.work = none) (hr : r.work = none) :
    ({ s with renderer := r } : State).Table where
  config := h.config
  mid := ⟨h.mid.table, workLawful_of_none hr⟩
  placements := h.placements
  bands := fun i b hb => by
    obtain ⟨h1, h2, j, hj, -, hc, hready, hprint⟩ := h.bands i b hb
    exact ⟨h1, h2, j, hj, fun hst => absurd hst (h.not_rendering hb hw), hc, hready, hprint⟩
  working := fun w hw' => by
    rw [show ({ s with renderer := r } : State).renderer.work = none from hr] at hw'
    cases hw'
  ordered := h.ordered
  waits := h.waits
  composed := fun w hw' => by
    rw [show ({ s with renderer := r } : State).renderer.work = none from hr] at hw'
    cases hw'

omit h in
/-- What a look does with the renderer working, and with it at rest. -/
theorem look_cases_work (s : State) :
    (s.renderer.work ≠ none ∧ look s = s) ∨
    (s.renderer.work = none ∧ ∃ r : Renderer, r.work = none ∧ look s = { s with renderer := r }) ∨
    (s.renderer.work = none ∧ ∃ j, s.jobs.toRender = some j ∧ s.claimable = true ∧
      look s = claimBand (chooseBand s.ring.h j) s) := by
  by_cases hw : s.renderer.work = none
  · rcases look_cases s with ⟨-, hn⟩ | ⟨r, hr, e⟩ | ⟨j, -, hj, -, hc, e⟩
    · exact absurd hw hn
    · exact .inr (.inl ⟨hw, r, hr, e⟩)
    · exact .inr (.inr ⟨hw, j, hj, hc, e⟩)
  · refine .inl ⟨hw, ?_⟩
    cases hr : s.renderer with
    | rendering w => simp only [look, hr]
    | _ => simp [hr, Renderer.work] at hw

omit h in
/-- The band at the claim index is FREE when it can be claimed. -/
theorem free_of_claimable (hc : s.claimable = true) : s.ring.bandAt s.ring.claim = none ∧
    s.ring.claim < s.ring.bands.length := by
  simp only [State.claimable, Bool.and_eq_true, decide_eq_true_eq] at hc
  obtain ⟨hlt, -⟩ := List.getElem?_eq_some_iff.mp hc.1
  exact ⟨by simp [Ring.bandAt, hc.1], hlt⟩

/-- The back job has bands only once the front job has no row left, also after a claim (R79). -/
theorem claim_waits {j : Job} (hj : s.jobs.toRender = some j) (hc : s.claimable = true) :
    (claimBand (chooseBand s.ring.h j) s).backWaits := by
  obtain ⟨hfree, hlen⟩ := free_of_claimable hc
  obtain ⟨hholds, ha, hlt⟩ := toRender_holds h.mid.table hj
  intro k hk hbegun i hi
  rw [hasBegun_iff] at hbegun
  by_cases hkj : k.tag = j.tag
  · have hkj' : k = j := by
      have := h.mid.table.find_of_holds (j := k) (.inr hk)
      rw [hkj, h.mid.table.find_of_holds hholds] at this
      exact (Option.some.inj this).symm
    subst hkj'
    rcases (toRender_eq_some hj).2 with ⟨hf, -⟩ | ⟨-, hfront⟩
    · exact absurd rfl (h.mid.table.apart k hf k hk).1
    · rcases hfront i hi with ha' | hle
      · exact .inl ha'
      · exact .inr (Nat.le_antisymm (h.mid.table.front i hi).rendered hle)
  · refine h.waits k hk ((hasBegun_iff s k).mpr ?_) i hi
    rcases hbegun with hr | ⟨l, b, hb, hbt⟩
    · exact .inl hr
    · rw [bandAt_claimBand _ hlen] at hb
      split at hb
      · obtain rfl := Option.some.inj hb
        exact absurd hbt.symm hkj
      · exact .inr ⟨l, b, hb, hbt⟩

/-- A band claimed is lawful, and so are the others (R64, R66). -/
theorem claim_bands {j : Job} (hj : s.jobs.toRender = some j) (hw : s.renderer.work = none) (hc : s.claimable = true) :
    (claimBand (chooseBand s.ring.h j) s).bandsLawful := by
  obtain ⟨hfree, hlen⟩ := free_of_claimable hc
  obtain ⟨hholds, ha, hlt⟩ := toRender_holds h.mid.table hj
  intro i b hb
  rw [bandAt_claimBand _ hlen] at hb
  split at hb
  · rename_i hi
    obtain rfl := Option.some.inj hb
    have hpos := h.h_pos
    have hcount : 1 ≤ bandCount s.ring.h j.length j.rendered ∧ bandCount s.ring.h j.length j.rendered ≤ s.ring.h := by
      unfold bandCount
      omega
    exact ⟨hcount.1, hcount.2, j, h.mid.table.find_of_holds hholds, fun _ => ⟨ha, _, rfl, hi.symm, rfl, rfl, rfl⟩,
      fun hne => absurd rfl hne, fun hr => (by cases hr), fun hp => (by cases hp)⟩
  · obtain ⟨h1, h2, k, hk, -, hc', hready, hprint⟩ := h.bands i b hb
    exact ⟨h1, h2, k, hk, fun hst => absurd hst (h.not_rendering hb hw), hc', hready, hprint⟩

/-- A look keeps the law of the label in the middle of an event. -/
theorem look_table : (look s).Table := by
  have hmid := look_mid h.mid
  rcases look_cases_work s with ⟨-, e⟩ | ⟨hw, r, hr, e⟩ | ⟨hw, j, hj, hc, e⟩
  · rwa [e]
  · rw [e]
    exact h.resting hw hr
  · obtain ⟨hfree, hlen⟩ := free_of_claimable hc
    obtain ⟨hcfg, hbase, hh, hn2, hn8, hzone, hbands, hclaim⟩ := h.config
    obtain ⟨-, -, hlt⟩ := toRender_holds h.mid.table hj
    have hpos := h.h_pos
    rw [e] at hmid ⊢
    refine ⟨⟨hcfg, hbase, hh, hn2, hn8, hzone, ?_, Nat.mod_lt _ (by omega)⟩, hmid, ?_, claim_bands h hj hw hc, ?_,
      ordered_claim h.ordered hclaim hlen fun i b hb => claim_inOrder h hj hw hb _, claim_waits h hj hc,
      claimBand_composed h.lineBytes_pos ?_ h.placements⟩
    · rw [claimBand_ring, List.length_set]
      exact hbands
    · refine placementsLawful_of h.placements ?_ ?_ fun _ _ k hk ha => ⟨k, hk, ha, rfl⟩
      · rw [claimBand_placements, List.pairwise_map]
        refine h.placements.1.imp fun {p q} hne => ?_
        split <;> split <;> exact hne
      · intro p' hp'
        obtain ⟨p, hp, rfl⟩ := List.mem_map.mp hp'
        refine ⟨p, hp, ?_⟩
        split
        · exact ⟨true, rfl⟩
        · exact ⟨p.active, rfl⟩
    · intro w hw'
      obtain rfl := Option.some.inj hw'
      exact ⟨_, by rw [bandAt_claimBand _ hlen]; exact if_pos rfl, rfl⟩
    · show 1 ≤ bandCount s.ring.h j.length j.rendered
      unfold bandCount
      omega

end

end Sys2Proof.Machine
end

section
/-! What a completion or an abort frees, a row consumed, and a band set: each keeps the law in the middle of an event. -/

namespace Sys2Proof.Machine

theorem findPlacement_filter {ps : List Placement} {q : Placement → Bool} {a : Nat} {p : Placement}
    (h : findPlacement ps a = some p) (hq : q p = true) : findPlacement (ps.filter q) a = some p := by
  induction ps with
  | nil => cases h
  | cons x xs ih =>
    by_cases hx : x.handle = a
    · obtain rfl : x = p := by simpa [findPlacement, hx] using h
      simp [findPlacement, hq, hx]
    · have h' : findPlacement xs a = some p := by simpa [findPlacement, hx] using h
      by_cases hqx : q x = true
      · simpa [findPlacement, hqx, hx] using ih h'
      · simpa [hqx] using ih h'

/-- What a table does to the other jobs when one is freed: it keeps them, and the front job in front; a kept PRINTING band's
job is ABORTING in front; and the back job waits for the front job as before, or for an ABORTING one. -/
structure JobTable.Frees (tag : Byte) (keep : Bool) (t u : JobTable) : Prop where
  inEvent : u.InEvent
  other : ∀ a ≠ tag, u.find a = t.find a
  front : ∀ a ≠ tag, t.isFront a = true → u.isFront a = true
  stray : ∀ j ∈ t.front, j.isAborting = true → j.tag ≠ tag → j ∈ u.front
  waits : ∀ k ∈ u.back, k ∈ t.back ∧ ∀ j ∈ u.front, j.isAborting = true ∨ j ∈ t.front
  kept : keep = true → ∃ j ∈ t.front, ∃ k ∈ u.front, j.tag = tag ∧ k.tag = tag ∧ k.isAborting = true ∧
    k.done = j.done ∧ k.rendered = j.rendered

/-- With a job freed the law holds again (R18, R70, R94). A band freed between two bands left is of the job freed; of the two
the older one is then the front job's and the newer one the back job's, or the older one is the PRINTING band that is kept. -/
theorem freed_table {tag : Byte} {keep : Bool} {s u : State} (h : s.Table) (hf : JobFreed tag keep s u)
    (ht : s.jobs.Frees tag keep u.jobs) : u.Table := by
  have hband := hf.bandAt
  have hwork : ∀ w, w ∈ u.renderer.work ↔ w ∈ s.renderer.work ∧ w.job ≠ tag := by
    intro w
    rw [hf.renderer]
    exact mem_work_abandoning
  have hfindP : ∀ a p, findPlacement s.placements a = some p → p.job ≠ tag → findPlacement u.placements a = some p := by
    intro a p hp hne
    rw [hf.placements]
    exact findPlacement_filter hp (by simpa using hne)
  have hkept : ∀ i b, u.ring.bandAt i = some b → b.job = tag →
      b.state = .printing ∧ ∃ j ∈ s.jobs.front, ∃ k ∈ u.jobs.front, j.tag = tag ∧ k.tag = tag ∧ k.isAborting = true ∧
        k.done = j.done ∧ k.rendered = j.rendered := by
    intro i b hb hj
    obtain ⟨hk, hst⟩ := ((hband i b).mp hb).2.resolve_left (fun hne => hne hj)
    exact ⟨hst, ht.kept hk⟩
  obtain ⟨hcfg, hbase, hh, hn2, hn8, hzone, hbands, hclaim⟩ := h.config
  refine ⟨?_, ⟨ht.inEvent, hf.workLawful h.mid.work ht.other⟩, ?_, fun i b hb => ?_, fun w hw => ?_, ?_, ?_, ?_⟩
  · refine ⟨hf.headCfg ▸ hcfg, ?_⟩
    unfold State.zoneLawful
    rw [hf.base, hf.h, hf.n, hf.bands, hf.headCfg]
    refine ⟨hbase, hh, hn2, hn8, hzone, by simpa [Ring.bandsFreed] using hbands, ?_⟩
    obtain ⟨-, hcl⟩ | ⟨d₀, -, -, -, hcl⟩ := claimSetBack_cases hf.claim <;> rw [hcl]
    · exact hclaim
    · exact Nat.mod_lt _ (by omega)
  · refine placementsLawful_of h.placements ?_ ?_ fun p hp j hj ha => ⟨j, ?_, ha, rfl⟩
    · rw [hf.placements]
      exact h.placements.1.filter _
    · intro p hp
      rw [hf.placements] at hp
      exact ⟨p, (List.mem_filter.mp hp).1, p.active, rfl⟩
    · rw [ht.other _ (hf.placements_job p hp)]
      exact hj
  · obtain ⟨hb', -⟩ := (hband i b).mp hb
    obtain ⟨-, -, j, hj, -, hc, -, hp⟩ := h.bands i b hb'
    by_cases hne : b.job = tag
    · obtain ⟨hst, i', hi', k, hk, hit, hkt, hka, hkd, hkr⟩ := hkept i b hb hne
      have hij : i' = j := by
        rw [hne, ← hit, find_front hi'] at hj
        exact Option.some.inj hj
      subst hij
      refine bandLawful_of (h.bands i b hb') hf.h (fun j' hj' => ⟨k, ?_, ?_⟩) (fun _ _ => ?_) fun hr => ?_
      · rw [hne, ← hkt]
        exact find_front hk
      · obtain rfl : j' = i' := Option.some.inj (hj'.symm.trans hj)
        refine ⟨fun hn => absurd hst hn, Nat.le_of_eq hkr.symm, fun hn => ?_, fun _ => ?_⟩ <;> rw [hkd]
        · exact (hc hn).2
        · exact (hp hst).2
      · exact isFront_iff.mpr ⟨k, hk, hkt.trans hne.symm⟩
      · rw [hst] at hr
        cases hr
    · refine bandLawful_of (h.bands i b hb') hf.h (fun j' hj' => ⟨j', ?_, ?_⟩) (fun _ hfr => ht.front _ hne hfr)
        fun _ w hw _ hwj => ⟨w, (hwork w).mpr ⟨hw, hwj ▸ hne⟩, rfl, rfl, rfl, rfl⟩
      · rw [ht.other _ hne]
        exact hj'
      · obtain rfl : j' = j := Option.some.inj (hj'.symm.trans hj)
        exact ⟨fun _ ha => ha, Nat.le_refl _, fun hn => (hc hn).2, fun hn => (hp hn).2⟩
  · obtain ⟨hw', hne⟩ := (hwork w).mp hw
    exact ⟨_, (hband w.band _).mpr ⟨h.work_record hw', .inl hne⟩, rfl⟩
  · have hstray : ∀ i b, u.ring.bandAt i = some b → s.stray b → u.stray b := by
      intro i b hb ⟨hst, j, hj, hjb, ha⟩
      by_cases hne : b.job = tag
      · obtain ⟨-, -, -, k, hk, -, hkt, hka, -⟩ := hkept i b hb hne
        exact ⟨hst, k, hk, hkt.trans hne.symm, hka⟩
      · exact ⟨hst, j, ht.stray j hj ha (hjb ▸ hne), hjb, ha⟩
    have hfront : ∀ i b, u.ring.bandAt i = some b → s.jobs.isFront b.job = true → u.jobs.isFront b.job = true := by
      intro i b hb hfr
      by_cases hne : b.job = tag
      · obtain ⟨-, -, -, k, hk, -, hkt, -⟩ := hkept i b hb hne
        exact isFront_iff.mpr ⟨k, hk, hkt.trans hne.symm⟩
      · exact ht.front _ hne hfr
    refine ordered_setBack h.ordered hclaim hf.n hf.claim (fun i b hb => ((hband i b).mp hb).1) hfront hstray ?_
    intro i k l b c x hb hc hx hbx hxc
    by_cases hux : (u.ring.bandAt l).isSome = true
    · exact .inl hux
    have hxt : x.job = tag := by
      by_contra hne
      exact hux (Option.isSome_iff_exists.mpr ⟨x, (hband l x).mpr ⟨hx, .inl hne⟩⟩)
    by_cases hbt : b.job = tag
    · obtain ⟨hst, -, -, k', hk', -, hkt, hka, -⟩ := hkept i b hb hbt
      exact .inr ⟨hst, k', hk', hkt.trans hbt.symm, hka⟩
    · have hbf := hbx.2 (by rw [hxt]; exact hbt)
      by_cases hct : c.job = tag
      · obtain ⟨-, j, hj, -, -, hjt, -⟩ := hkept k c hc hct
        obtain ⟨j', hj', hjb⟩ := isFront_iff.mp hbf
        obtain rfl : j = j' := Option.some.inj (Eq.trans (Eq.symm hj) hj')
        exact absurd (hjb.symm.trans hjt) hbt
      · obtain ⟨j', hj', hjx⟩ := isFront_iff.mp (hxc.2 (by rw [hxt]; exact Ne.symm hct))
        obtain ⟨j, hj, hjb⟩ := isFront_iff.mp hbf
        obtain rfl : j = j' := Option.some.inj (Eq.trans (Eq.symm hj) hj')
        exact absurd (hjb.symm.trans (hjx.trans hxt)) hbt
  · intro k hk hbegun j hj
    obtain ⟨hk', hwait⟩ := ht.waits k hk
    rcases hwait j hj with ha | hj'
    · exact .inl ha
    · refine h.waits k hk' ((hasBegun_iff s k).mpr ?_) j hj'
      rcases (hasBegun_iff u k).mp hbegun with hr | ⟨i, b, hb, hbt⟩
      · exact .inl hr
      · exact .inr ⟨i, b, ((hband i b).mp hb).1, hbt⟩
  · refine composeLawful_of h.composed hf.headCfg (fun w hw => ((hwork w).mp hw).1) fun w hw c _ p hp _ hj => ?_
    exact hfindP _ _ hp (hj ▸ ((hwork w).mp hw).2)

end Sys2Proof.Machine
end

section
/-! Completion and abort keep the label's law in the middle of an event, and where the renderer rests after a look. -/

namespace Sys2Proof.Machine

/-! ### What is freed, case by case (R14, R18, R19, R21) -/

/-- The front job leaves with all that is left of it. -/
theorem frees_leave {t : JobTable} (h : t.InEvent) {j : Job} (hj : t.front = some j) :
    t.Frees j.tag false ⟨t.back, none⟩ where
  inEvent := h.leave.1
  other := fun a ha => find_leave hj ha
  front := fun a ha hf => by
    obtain ⟨k, hk, hkt⟩ := isFront_iff.mp hf
    obtain rfl := Option.some.inj (hj.symm.trans hk)
    exact absurd hkt.symm ha
  stray := fun k hk _ hne => by
    obtain rfl := Option.some.inj (hj.symm.trans hk)
    exact absurd rfl hne
  waits := fun _ hk => (by cases hk)
  kept := fun hk => (by cases hk)

/-- The back job leaves with all that is left of it. -/
theorem frees_back {t : JobTable} (h : t.InEvent) {k : Job} (hk : t.back = some k) :
    t.Frees k.tag false ⟨t.front, none⟩ where
  inEvent := h.backLeaves
  other := fun a ha => find_backLeaves hk ha
  front := fun a _ hf => hf
  stray := fun j hj _ _ => hj
  waits := fun _ hk => (by cases hk)
  kept := fun hk => (by cases hk)

/-- The front job enters ABORTING and keeps its PRINTING band. -/
theorem frees_abort {t : JobTable} (h : t.InEvent) {j : Job} (hj : t.front = some j) (ha : j.isAborting = false)
    (cause : AbortCause) : t.Frees j.tag true ⟨some { j with state := .aborting cause }, t.back⟩ := by
  have hmap : (⟨some { j with state := .aborting cause }, t.back⟩ : JobTable) =
      { t with front := t.front.map (Job.abort cause) } := by
    simp [hj, Job.abort, ha]
  refine ⟨?_, fun a hne => ?_, fun a hne hf => ?_, fun k hk _ hne => ?_, fun k hk => ⟨hk, fun i hi => ?_⟩, fun _ => ?_⟩
  · rw [hmap]
    exact h.abort cause
  · rw [hmap]
    exact find_abort cause (by simp [JobTable.isFront, hj, Ne.symm hne])
  · obtain ⟨k, hk, hkt⟩ := isFront_iff.mp hf
    obtain rfl := Option.some.inj (hj.symm.trans hk)
    exact absurd hkt.symm hne
  · obtain rfl := Option.some.inj (hj.symm.trans hk)
    exact absurd rfl hne
  · obtain rfl := Option.some.inj hi
    exact .inl rfl
  · exact ⟨j, hj, _, rfl, rfl, rfl, rfl, rfl, rfl⟩

section
variable {s : State} (h : s.Table)
include h

/-- An ABORTING job has no placement, and no band in work (R25, R94). -/
theorem placements_ne_aborting {j : Job} (hj : s.jobs.front = some j) (ha : j.isAborting = true) :
    ∀ p ∈ s.placements, p.job ≠ j.tag := by
  intro p hp heq
  obtain ⟨-, -, -, -, -, k, hk, hka, -⟩ := h.placements.2 p hp
  rw [heq, find_front hj] at hk
  obtain rfl := Option.some.inj hk
  simp [ha] at hka

/-- Of an ABORTING front job its bands alone are left to free (R19). -/
theorem freeJobBands_freed {j : Job} (hj : s.jobs.front = some j) (ha : j.isAborting = true) :
    JobFreed j.tag false s (s.freeJobBands j.tag false) := by
  have hf := freeJob_freed j.tag false s
  have hwork := work_ne_aborting h.mid hj ha
  refine hf.congr (freeJob_labelOnly _ _ s).headCfg.symm (by simp) ?_ ?_ (by simp)
  · rw [hf.placements]
    exact (List.filter_eq_self.mpr fun p hp => by simpa using placements_ne_aborting h hj ha p hp).symm
  · rw [hf.renderer]
    cases hr : s.renderer with
    | rendering w =>
      have hne : w.job ≠ j.tag := hwork w (by rw [hr]; rfl)
      simp [Renderer.abandoning, hne, hr]
    | _ => simp [Renderer.abandoning, hr]

theorem completeFront_table {j k : Job} (hj : s.jobs.front = some j) (htag : k.tag = j.tag) : (completeFront k s).Table := by
  obtain ⟨u, hu, hfreed, hjobs⟩ := completeFront_freed k s
  rw [hu]
  refine look_table (freed_table h hfreed ?_)
  rw [hjobs, htag]
  exact frees_leave h.mid.table hj

theorem abortFrontAtOnce_table {j : Job} (hj : s.jobs.front = some j) (cause : AbortCause) :
    (abortFrontAtOnce j cause s).Table := by
  obtain ⟨u, hu, hfreed, hjobs⟩ := abortFrontAtOnce_freed j cause s
  rw [hu]
  refine look_table (freed_table h hfreed ?_)
  rw [hjobs]
  exact frees_leave h.mid.table hj

theorem endAbort_table : (endAbort s).Table := by
  cases hj : s.jobs.front with
  | none =>
    have he : endAbort s = s := by simp [endAbort, hj]
    rwa [he]
  | some j =>
    cases ha : j.isAborting with
    | false => rwa [endAbort_other hj ha]
    | true =>
      cases hc : j.state with
      | aborting cause =>
        rw [endAbort_aborting hj hc]
        refine look_table (freed_table h ((freeJobBands_freed h hj ha).post _).frontLeaves ?_)
        have hjobs : (frontLeaves (post (reportJobAborted j cause) (s.freeJobBands j.tag false))).jobs = ⟨s.jobs.back, none⟩ := by
          simp
        rw [hjobs]
        exact frees_leave h.mid.table hj
      | _ => simp [Job.isAborting, hc] at ha

theorem abortInFlight_table (cause : AbortCause) : (abortInFlight cause s).Table := by
  cases hj : s.jobs.front with
  | none =>
    have he : abortInFlight cause s = s := by simp [abortInFlight, hj]
    rwa [he]
  | some j =>
    cases ha : j.isAborting with
    | true => rwa [abortInFlight_aborting hj ha]
    | false =>
      rw [abortInFlight_front hj ha]
      refine look_table (freed_table h (freeJob_withJobs_freed j.tag true s _) ?_)
      rw [freeJob_jobs]
      exact frees_abort h.mid.table hj ha cause

theorem abortBack_table {k : Job} (hk : s.jobs.back = some k) : (abortBack k s).Table := by
  have hf := ((freeJob_freed k.tag false s).post (reportJobAborted k .host)).withJobs s.jobs ⟨s.jobs.front, none⟩
  have hu : abortBack k s = look ((post (reportJobAborted k .host) (freeJob k.tag false s)).withJobs ⟨s.jobs.front, none⟩) := by
    simp [abortBack, State.withJobs]
  rw [hu]
  exact look_table (freed_table h hf (frees_back h.mid.table hk))

end

/-! ### Where the renderer rests (R78) -/

/-- A look does not see where the renderer rested. -/
theorem look_of_resting (s : State) {r : Renderer} (hs : s.renderer.work = none) (hr : r.work = none) :
    look { s with renderer := r } = look s := by
  have key : ∀ q : Renderer, q.work = none → look { s with renderer := q } = look { s with renderer := .idle } := by
    intro q hq
    cases q with
    | rendering w => cases hq
    | _ => rfl
  exact (key r hr).trans (key s.renderer hs).symm

/-- After a look the renderer rests where the look left it. -/
theorem look_lookSettled (s : State) : (look s).lookSettled := by
  intro hw
  rcases look_cases_work s with ⟨hn, e⟩ | ⟨hs, r, hr, e⟩ | ⟨-, j, -, -, e⟩
  · rw [e]
    exact e
  · have h := look_of_resting s hs hr
    rw [← e] at h
    exact h
  · rw [e] at hw
    cases hw

/-- Where a renderer at rest stays when it looks (R79, R80, R81). -/
def State.restsAt (s : State) (r : Renderer) : Prop :=
  (s.jobs.toRender = none ∧ r = .idle) ∨
  ∃ j, s.jobs.toRender = some j ∧
    ((commitAllows j (chooseBand s.ring.h j) = false ∧ r = .waitCommit (chooseBand s.ring.h j)) ∨
      (commitAllows j (chooseBand s.ring.h j) = true ∧ s.claimable = false ∧ r = .waitBand (chooseBand s.ring.h j)))

theorem lookSettled_iff (s : State) : s.lookSettled ↔ (s.renderer.work = none → s.restsAt s.renderer) := by
  refine forall_congr' fun hw => ?_
  have hlook : look s = look { s with renderer := .idle } := (look_of_resting s hw (r := .idle) rfl).symm
  have hself : ∀ r : Renderer, ({ s with renderer := r } : State) = s ↔ r = s.renderer := fun r =>
    ⟨fun h => congrArg State.renderer h, fun h => by rw [h]⟩
  unfold State.restsAt
  cases hj : s.jobs.toRender with
  | none =>
    have he : look s = { s with renderer := .idle } := by
      rw [hlook]
      simp [look, hj]
    rw [he, hself]
    constructor
    · exact fun h => .inl ⟨rfl, h.symm⟩
    · rintro (⟨-, h⟩ | ⟨_, h, -⟩)
      · exact h.symm
      · cases h
  | some j =>
    cases hc : commitAllows j (chooseBand s.ring.h j) with
    | false =>
      have he : look s = { s with renderer := .waitCommit (chooseBand s.ring.h j) } := by
        rw [hlook]
        simp [look, hj, hc]
      rw [he, hself]
      constructor
      · exact fun h => .inr ⟨j, rfl, .inl ⟨hc, h.symm⟩⟩
      · rintro (⟨h, -⟩ | ⟨k, h, ⟨-, hr⟩ | ⟨h', -⟩⟩)
        · cases h
        · obtain rfl := Option.some.inj h
          exact hr.symm
        · obtain rfl := Option.some.inj h
          simp [hc] at h'
    | true =>
      cases hk : s.claimable with
      | false =>
        have hk' : ({ s with renderer := .idle } : State).claimable = false := hk
        have he : look s = { s with renderer := .waitBand (chooseBand s.ring.h j) } := by
          rw [hlook]
          simp [look, hj, hc, hk']
        rw [he, hself]
        constructor
        · exact fun h => .inr ⟨j, rfl, .inr ⟨hc, rfl, h.symm⟩⟩
        · rintro (⟨h, -⟩ | ⟨k, h, ⟨h', -⟩ | ⟨-, -, hr⟩⟩)
          · cases h
          · obtain rfl := Option.some.inj h
            simp [hc] at h'
          · obtain rfl := Option.some.inj h
            exact hr.symm
      | true =>
        have hk' : ({ s with renderer := .idle } : State).claimable = true := hk
        have he : (look s).renderer.work ≠ none := by
          rw [hlook]
          simp [look, hj, hc, hk', claimBand, Renderer.work]
        constructor
        · intro h
          rw [h] at he
          exact absurd hw he
        · rintro (⟨h, -⟩ | ⟨k, h, ⟨h', -⟩ | ⟨-, h', -⟩⟩)
          · cases h
          · obtain rfl := Option.some.inj h
            simp [hc] at h'
          · cases h'

/-- The second record is rendered as the first is. -/
structure Job.RendersAs (j k : Job) : Prop where
  tag : k.tag = j.tag
  rendered : k.rendered = j.rendered
  length : k.length = j.length
  commitRow : k.commitRow = j.commitRow
  isOpen : k.isOpen = j.isOpen

/-- The renderer rests as before where the job to render is the same, but for its done row, and no band has become free to
claim. -/
theorem lookSettled_of {s t : State} (h : s.lookSettled) (hr : t.renderer = s.renderer) (hh : t.ring.h = s.ring.h)
    (hnone : s.jobs.toRender = none → t.jobs.toRender = none)
    (hsome : ∀ j, s.jobs.toRender = some j → ∃ k, t.jobs.toRender = some k ∧ j.RendersAs k)
    (hc : t.claimable = true → s.claimable = true) : t.lookSettled := by
  rw [lookSettled_iff] at h ⊢
  rw [hr]
  intro hw
  rcases h hw with ⟨hj, he⟩ | ⟨j, hj, hrest⟩
  · exact .inl ⟨hnone hj, he⟩
  · obtain ⟨k, hk, hjk⟩ := hsome j hj
    have hchoose : chooseBand t.ring.h k = chooseBand s.ring.h j := by
      simp only [chooseBand, hh, hjk.tag, hjk.rendered, hjk.length]
    have hcommit : commitAllows k (chooseBand s.ring.h j) = commitAllows j (chooseBand s.ring.h j) := by
      simp only [commitAllows, hjk.isOpen, hjk.commitRow]
    refine .inr ⟨k, hk, ?_⟩
    rw [hchoose, hcommit]
    refine hrest.imp_right fun ⟨h1, h2, h3⟩ => ⟨h1, ?_, h3⟩
    by_contra hn
    rw [Bool.not_eq_false] at hn
    rw [hc hn] at h2
    cases h2

/-- The renderer rests as before where jobs, bands and the PROOF hold are as they were. -/
theorem lookSettled_congr {s t : State} (h : s.lookSettled) (hr : t.renderer = s.renderer) (hring : t.ring = s.ring)
    (hj : t.jobs = s.jobs) (hp : t.port.proof = s.port.proof) : t.lookSettled := by
  refine lookSettled_of h hr (by rw [hring]) (fun hn => hj ▸ hn) (fun j hj' => ⟨j, hj ▸ hj', rfl, rfl, rfl, rfl, rfl⟩) ?_
  unfold State.claimable
  rw [hring, hp]
  exact id

theorem lookSettled_of_work {s : State} (h : s.renderer.work ≠ none) : s.lookSettled := fun hw => absurd hw h

/-- The job to render next after a change of the front job that renders it as before. -/
theorem toRender_mapFront {t : JobTable} {f : Job → Job}
    (hf : ∀ j, (f j).isAborting = j.isAborting ∧ j.RendersAs (f j)) :
    (t.toRender = none → ({ t with front := t.front.map f } : JobTable).toRender = none) ∧
    ∀ j, t.toRender = some j → ∃ k, ({ t with front := t.front.map f } : JobTable).toRender = some k ∧ j.RendersAs k := by
  obtain ⟨front, back⟩ := t
  cases front with
  | none => exact ⟨id, fun j hj => ⟨j, hj, rfl, rfl, rfl, rfl, rfl⟩⟩
  | some i =>
    obtain ⟨ha, hr⟩ := hf i
    by_cases hc : i.isAborting = false ∧ i.rendered < i.length
    · have h1 : (JobTable.mk (some i) back).toRender = some i := by simp [JobTable.toRender, Option.filter, hc.1, hc.2]
      have h2 : (JobTable.mk (some (f i)) back).toRender = some (f i) := by
        simp [JobTable.toRender, Option.filter, ha, hr.rendered, hr.length, hc.1, hc.2]
      refine ⟨fun hn => ?_, fun j hj => ?_⟩
      · rw [h1] at hn
        cases hn
      · rw [h1] at hj
        obtain rfl := Option.some.inj hj
        exact ⟨f i, h2, hr⟩
    · have hc1 : (some i).filter (fun j => !j.isAborting && decide (j.rendered < j.length)) = none := by
        rw [Option.filter_eq_none_iff]
        intro j hj
        obtain rfl := Option.some.inj hj
        simpa using hc
      have hc2 : (some (f i)).filter (fun j => !j.isAborting && decide (j.rendered < j.length)) = none := by
        rw [Option.filter_eq_none_iff]
        intro j hj
        obtain rfl := Option.some.inj hj
        rw [ha, hr.rendered, hr.length]
        simpa using hc
      have heq : (JobTable.mk (some (f i)) back).toRender = (JobTable.mk (some i) back).toRender := by
        simp only [JobTable.toRender, hc1, hc2]
      exact ⟨fun hn => heq.trans hn, fun j hj => ⟨j, heq.trans hj, rfl, rfl, rfl, rfl, rfl⟩⟩

end Sys2Proof.Machine
end

section
/-! A row consumed, a line started and a line printed keep the label's law in the middle of an event. -/

namespace Sys2Proof.Machine

/-! ### A row consumed (R11) -/

/-- The record of a job with a row consumed, printed or blank. -/
def Job.consumes (b : Nat) (j : Job) : Job := { j with done := j.done + 1, blankRows := j.blankRows + b }

theorem isFront_mapFront {t : JobTable} {f : Job → Job} (hf : ∀ j, (f j).tag = j.tag) (a : Byte) :
    ({ t with front := t.front.map f } : JobTable).isFront a = t.isFront a := by
  unfold JobTable.isFront
  cases t.front <;> simp [hf]

/-- The front job is the one of its tag. -/
theorem front_of_isFront {t : JobTable} {j : Job} (hf : t.isFront j.tag = true) (hj : t.find j.tag = some j) :
    t.front = some j := by
  obtain ⟨k, hk, hkt⟩ := isFront_iff.mp hf
  rw [← hkt, find_front hk] at hj
  exact hj ▸ hk

section
variable {s : State} (h : s.Table)
include h

/-- A row that no composed band of the front job ends with is consumed. -/
theorem consumes_table {b : Nat} (hb : b ≤ 1)
    (hcons : ∀ j ∈ s.jobs.front, ∀ i c, s.ring.bandAt i = some c → c.job = j.tag → c.state ≠ .rendering →
      j.done + 1 < c.first + c.count) : (s.updateFront (Job.consumes b)).Table := by
  have hfind : ∀ a j, s.jobs.find a = some j → ∃ k, (s.updateFront (Job.consumes b)).jobs.find a = some k ∧
      (k = j ∨ (s.jobs.front = some j ∧ k = j.consumes b)) := by
    intro a j hj
    rw [State.updateFront_jobs, find_mapFront (f := Job.consumes b) (fun _ _ => rfl), hj]
    split
    · rename_i hf
      obtain rfl := find_tag hj
      exact ⟨_, rfl, .inr ⟨front_of_isFront hf hj, rfl⟩⟩
    · exact ⟨j, rfl, .inl rfl⟩
  refine ⟨h.config, mapFront_mid h.mid b hb fun _ => rfl, ?_, fun i c hc => ?_, h.working, ?_, ?_, ?_⟩
  · refine placementsLawful_of h.placements h.placements.1 (fun p hp => ⟨p, hp, p.active, rfl⟩) fun p _ j hj ha => ?_
    obtain ⟨k, hk, rfl | ⟨-, rfl⟩⟩ := hfind _ _ hj
    · exact ⟨_, hk, ha, rfl⟩
    · exact ⟨_, hk, ha, rfl⟩
  · obtain ⟨-, -, j', hj', -, hcomp, -, hprint⟩ := h.bands i c hc
    refine bandLawful_of (h.bands i c hc) rfl (fun j hj => ?_) (fun _ hf => ?_) fun _ w hw _ _ => ⟨w, hw, rfl, rfl, rfl, rfl⟩
    · obtain rfl : j = j' := Option.some.inj (hj.symm.trans hj')
      obtain ⟨k, hk, rfl | ⟨hfront, rfl⟩⟩ := hfind _ _ hj
      · exact ⟨_, hk, fun _ ha => ha, Nat.le_refl _, fun hn => (hcomp hn).2, fun hn => (hprint hn).2⟩
      · exact ⟨_, hk, fun _ ha => ha, Nat.le_refl _, fun hn => hcons j hfront i c hc (find_tag hj).symm hn,
          fun hn => Nat.le_succ_of_le (hprint hn).2⟩
    · rw [State.updateFront_jobs, isFront_mapFront (f := Job.consumes b) fun _ => rfl]
      exact hf
  · refine ordered_of h.ordered rfl rfl (fun i c hc => ⟨c, hc, rfl, rfl, rfl, ?_⟩) (fun a hf => ?_) fun _ hs => hs
    · rintro ⟨hst, j, hj, hjt, ha⟩
      exact ⟨hst, j.consumes b, by rw [State.updateFront_jobs]; exact Option.map_eq_some_iff.mpr ⟨j, hj, rfl⟩, hjt, ha⟩
    · rw [State.updateFront_jobs, isFront_mapFront (f := Job.consumes b) fun _ => rfl]
      exact hf
  · intro k hk hbegun j hj
    obtain ⟨i, hi, rfl⟩ := Option.map_eq_some_iff.mp hj
    exact h.waits k hk hbegun i hi
  · exact composeLawful_of h.composed rfl (fun w hw => hw) fun _ _ _ _ _ hf _ _ => hf

/-- The front job's PRINTING band, and every other composed band of it stands after the row to print (R66, R69). -/
theorem composed_after_printing {i k : Nat} {b c : Band} {j : Job} (hb : s.ring.bandAt i = some b) (hst : b.state = .printing)
    (hj : s.jobs.front = some j) (hc : s.ring.bandAt k = some c) (hcj : c.job = j.tag) (hcs : c.state ≠ .rendering)
    (hne : k ≠ i) : j.done + 1 < c.first + c.count := by
  obtain ⟨h1, -, j₁, hj₁, -, hcomp, -, hprint⟩ := h.bands i b hb
  obtain ⟨h2, -, j₂, hj₂, -, hcomp₂, -, -⟩ := h.bands k c hc
  obtain ⟨hfront, hfirst⟩ := hprint hst
  obtain ⟨j', hj', hjb⟩ := isFront_iff.mp hfront
  obtain rfl : j = j' := Option.some.inj (hj.symm.trans hj')
  obtain rfl : j = j₁ := by
    rw [← hjb, find_front hj] at hj₁
    exact Option.some.inj hj₁
  obtain rfl : j = j₂ := by
    rw [hcj, find_front hj] at hj₂
    exact Option.some.inj hj₂
  have hd₁ := (hcomp (by simp [hst])).2
  have hd₂ := (hcomp₂ hcs).2
  rcases h.apart hc hb hne (hcj.trans hjb) with hle | hle <;> omega

/-- The band of a PRINTING record becomes FREE: it is the oldest of the run (R69). -/
theorem release_table {i : Nat} {b : Band} (hb : s.ring.bandAt i = some b) (hst : b.state = .printing) :
    (s.setBand i none).Table := by
  have hsub : ∀ k c, (s.setBand i none).ring.bandAt k = some c ↔ k ≠ i ∧ s.ring.bandAt k = some c := by
    intro k c
    rw [bandAt_setBand]
    by_cases hk : k = i
    · subst hk
      simp [lt_of_bandAt hb]
    · simp [hk]
  obtain ⟨hcfg, hbase, hh, hn2, hn8, hzone, hbands, hclaim⟩ := h.config
  refine ⟨⟨hcfg, hbase, hh, hn2, hn8, hzone, ?_, hclaim⟩, h.mid.congr rfl rfl rfl,
    placementsLawful_of h.placements h.placements.1 (fun p hp => ⟨p, hp, p.active, rfl⟩) fun _ _ j hj ha => ⟨j, hj, ha, rfl⟩,
    fun k c hc => ?_, fun w hw => ?_, ordered_free h.ordered fun d hd e he hei => ?_, fun k hk hbegun => ?_,
    composeLawful_of h.composed rfl (fun w hw => hw) fun _ _ _ _ _ hf _ _ => hf⟩
  · rw [State.setBand_ring, List.length_set]
    exact hbands
  · exact h.bands k c ((hsub k c).mp hc).2
  · refine ⟨_, (hsub w.band _).mpr ⟨fun heq => ?_, h.work_record hw⟩, rfl⟩
    rw [← heq, h.work_record hw] at hb
    obtain rfl := Option.some.inj hb
    cases hst
  · cases hc : s.ring.bandAt (s.ring.back d) with
    | none => rfl
    | some c =>
      exfalso
      have hne : s.ring.back d ≠ i := fun heq => by
        have := back_inj h.claim_lt hd (he.trans hd) (heq.trans hei.symm)
        omega
      obtain ⟨hsame, hother⟩ := (h.ordered d hd e he c hc).2 b (hei ▸ hb)
      obtain ⟨-, -, j, hj, -, -, -, hprint⟩ := h.bands i b hb
      obtain ⟨hfront, hfirst⟩ := hprint hst
      obtain ⟨h2, -, j₂, hj₂, hrend, hcomp, -, -⟩ := h.bands _ c hc
      obtain ⟨j₁, hj₁, hjb⟩ := isFront_iff.mp hfront
      by_cases hcj : c.job = b.job
      · have hle := hsame hcj
        by_cases hcs : c.state = .rendering
        · obtain ⟨-, w, hw, -, hwj, hwf, -⟩ := hrend hcs
          obtain ⟨hwr, -, -⟩ := work_job h.mid hw (.inl hj₁) (hjb.trans (hcj.symm.trans hwj.symm))
          obtain ⟨-, -, j₃, hj₃, -, hcb, -⟩ := h.bands i b hb
          rw [← hjb, find_front hj₁] at hj₃
          obtain rfl := Option.some.inj hj₃
          have := (hcb (by simp [hst])).1
          have := (h.bands i b hb).1
          omega
        · rw [hcj, hj] at hj₂
          obtain rfl := Option.some.inj hj₂
          have := (hcomp hcs).2
          omega
      · obtain ⟨j', hj', hjc⟩ := isFront_iff.mp (hother hcj)
        obtain rfl : j₁ = j' := Option.some.inj (Eq.trans (Eq.symm hj₁) hj')
        exact hcj (hjc.symm.trans hjb)
  · refine h.waits k hk ((hasBegun_iff s k).mpr ?_)
    rcases (hasBegun_iff _ k).mp hbegun with hr | ⟨l, c, hc, hct⟩
    · exact .inl hr
    · exact .inr ⟨l, c, ((hsub l c).mp hc).2, hct⟩

/-- The end of a printed line before the renderer looks: the row consumed, and its band FREE where the row was its last
(R69, R110). -/
theorem printed_table {line : Line} {j : Job} {b : Band} (hj : s.jobs.front = some j)
    (hb : s.ring.bandAt line.band = some b) (hst : b.state = .printing) (hrow : line.row = j.done) :
    (releaseBand line (printed line s)).Table := by
  have hfront : ∀ i ∈ s.jobs.front, i = j := fun i hi => Option.some.inj (Eq.trans (Eq.symm hi) hj)
  have hb' : (printed line s).ring.bandAt line.band = some b := hb
  by_cases hlast : line.row + 1 = b.first + b.count
  · have hrel : releaseBand line (printed line s) = look ((printed line s).setBand line.band none) := by
      simp [releaseBand, hb', hlast]
    have ht : ((s.setBand line.band none).updateFront (Job.consumes 0)).Table := by
      refine consumes_table (release_table h hb hst) (Nat.zero_le 1) fun i hi k c hc hcj hcs => ?_
      obtain rfl := hfront i hi
      rw [bandAt_setBand] at hc
      split at hc
      · cases hc
      · rename_i hn
        exact composed_after_printing h hb hst hj hc hcj hcs fun heq => hn ⟨heq, lt_of_bandAt hb⟩
    rw [hrel]
    exact look_table (ht.congr rfl rfl rfl rfl rfl)
  · have hrel : releaseBand line (printed line s) = printed line s := by simp [releaseBand, hb', hlast]
    have ht : (s.updateFront (Job.consumes 0)).Table := by
      refine consumes_table h (Nat.zero_le 1) fun i hi k c hc hcj hcs => ?_
      obtain rfl := hfront i hi
      by_cases hk : k = line.band
      · subst hk
        obtain rfl := Option.some.inj (hc.symm.trans hb)
        obtain ⟨-, -, j', hj', -, hcomp, -⟩ := h.bands _ _ hc
        rw [hcj, find_front hj] at hj'
        obtain rfl := Option.some.inj hj'
        have := (hcomp hcs).2
        omega
      · exact composed_after_printing h hb hst hj hc hcj hcs hk
    rw [hrel]
    exact ht.congr rfl rfl rfl rfl rfl

/-- A trailing row is consumed: no band of the job is left to consume. -/
theorem trailing_consumes {j : Job} (hj : s.jobs.front = some j) (hlen : j.length ≤ j.done) :
    ∀ i ∈ s.jobs.front, ∀ k c, s.ring.bandAt k = some c → c.job = i.tag → c.state ≠ .rendering →
      i.done + 1 < c.first + c.count := by
  intro i hi k c hc hcj hcs
  obtain rfl : i = j := Option.some.inj (Eq.trans (Eq.symm hi) hj)
  obtain ⟨-, -, j', hj', -, hcomp, -⟩ := h.bands k c hc
  rw [hcj, find_front hj] at hj'
  obtain rfl := Option.some.inj hj'
  have := hcomp hcs
  have := (h.mid.table.front i hj).rendered
  omega

/-- A row not ready is consumed blank: every composed band of the job holds later rows. -/
theorem blank_consumes {j : Job} (hj : s.jobs.front = some j) (hready : ¬ s.rowReady j) :
    ∀ i ∈ s.jobs.front, ∀ k c, s.ring.bandAt k = some c → c.job = i.tag → c.state ≠ .rendering →
      i.done + 1 < c.first + c.count := by
  intro i hi k c hc hcj hcs
  obtain rfl : i = j := Option.some.inj (Eq.trans (Eq.symm hi) hj)
  obtain ⟨hpos, -, j', hj', -, hcomp, -⟩ := h.bands k c hc
  rw [hcj, find_front hj] at hj'
  obtain rfl := Option.some.inj hj'
  have hd := (hcomp hcs).2
  have hst : c.state = .ready ∨ c.state = .printing := by
    cases hs : c.state <;> simp [hs] at hcs ⊢
  have hfirst : ¬ c.first ≤ i.done := fun hle => hready (.inr ⟨k, c, hc, hcj, hst, hle, hd⟩)
  omega

/-- A line is started: its band, composed and of the front job, becomes PRINTING (R69, R107). -/
theorem printing_table {i : Nat} {b : Band} {j : Job} (hb : s.ring.bandAt i = some b) (hst : b.state ≠ .rendering)
    (hj : s.jobs.front = some j) (hbj : b.job = j.tag) (hfirst : b.first ≤ j.done) :
    (s.setBand i (some { b with state := .printing })).Table := by
  have hset : ∀ k c, (s.setBand i (some { b with state := .printing })).ring.bandAt k = some c →
      (k = i ∧ c = { b with state := .printing }) ∨ (k ≠ i ∧ s.ring.bandAt k = some c) := by
    intro k c hc
    rw [bandAt_setBand] at hc
    by_cases hk : k = i
    · subst hk
      rw [if_pos ⟨rfl, lt_of_bandAt hb⟩] at hc
      exact .inl ⟨rfl, (Option.some.inj hc).symm⟩
    · rw [if_neg fun hn => hk hn.1] at hc
      exact .inr ⟨hk, hc⟩
  have hget : ∀ k c, k ≠ i → s.ring.bandAt k = some c →
      (s.setBand i (some { b with state := .printing })).ring.bandAt k = some c := by
    intro k c hk hc
    rw [bandAt_setBand, if_neg fun hn => hk hn.1, hc]
  obtain ⟨hcfg, hbase, hh, hn2, hn8, hzone, hbands, hclaim⟩ := h.config
  refine ⟨⟨hcfg, hbase, hh, hn2, hn8, hzone, ?_, hclaim⟩, h.mid.congr rfl rfl rfl,
    placementsLawful_of h.placements h.placements.1 (fun p hp => ⟨p, hp, p.active, rfl⟩) fun _ _ j hj ha => ⟨j, hj, ha, rfl⟩,
    fun k c hc => ?_, fun w hw => ?_, ?_, fun k hk hbegun => ?_,
    composeLawful_of h.composed rfl (fun w hw => hw) fun _ _ _ _ _ hf _ _ => hf⟩
  · rw [State.setBand_ring, List.length_set]
    exact hbands
  · rcases hset k c hc with ⟨rfl, rfl⟩ | ⟨-, hc'⟩
    · obtain ⟨h1, h2, j', hj', -, hcomp, -⟩ := h.bands k b hb
      refine ⟨h1, h2, j', hj', fun hn => (by cases hn), fun _ => hcomp hst, fun hn => (by cases hn), fun _ => ?_⟩
      rw [hbj, find_front hj] at hj'
      obtain rfl := Option.some.inj hj'
      exact ⟨isFront_iff.mpr ⟨j, hj, hbj.symm⟩, hfirst⟩
    · exact h.bands k c hc'
  · refine ⟨_, hget w.band _ (fun heq => ?_) (h.work_record hw), rfl⟩
    rw [← heq, h.work_record hw] at hb
    obtain rfl := Option.some.inj hb
    exact hst rfl
  · refine ordered_of h.ordered rfl rfl (fun k c hc => ?_) (fun _ hf => hf) fun k hs => ?_
    · rcases hset k c hc with ⟨rfl, rfl⟩ | ⟨-, hc'⟩
      · exact ⟨b, hb, rfl, rfl, rfl, fun hs => ⟨rfl, hs.2⟩⟩
      · exact ⟨c, hc', rfl, rfl, rfl, id⟩
    · rw [bandAt_setBand]
      split
      · rfl
      · exact hs
  · refine h.waits k hk ((hasBegun_iff s k).mpr ?_)
    rcases (hasBegun_iff _ k).mp hbegun with hr | ⟨l, c, hc, hct⟩
    · exact .inl hr
    · rcases hset l c hc with ⟨rfl, rfl⟩ | ⟨-, hc'⟩
      · exact .inr ⟨l, b, hb, hct⟩
      · exact .inr ⟨l, c, hc', hct⟩

end

end Sys2Proof.Machine
end

section
/-! The head channel keeps the label's law: completions, aborts, and the steps taken with no line in flight. -/

namespace Sys2Proof.Machine

/-! ### The next row (R103) -/

/-- The model's test of the next row is the claims' one. -/
theorem nextRowReady_iff (s : State) (j : Job) : s.nextRowReady j = true ↔ s.rowReady j := by
  unfold State.nextRowReady State.rowReady
  rw [Bool.or_eq_true, decide_eq_true_eq]
  refine or_congr Iff.rfl ?_
  constructor
  · intro h
    obtain ⟨i, hi⟩ := Option.isSome_iff_exists.mp h
    obtain ⟨b, hb, hj, hc, hh⟩ := bandHolding_eq_some hi
    simp only [Band.composed, Band.holds, decide_eq_true_eq] at hc hh
    exact ⟨i, b, hb, hj, hc, hh.1, hh.2⟩
  · rintro ⟨i, b, hb, hj, hc, h1, h2⟩
    have hi := lt_of_bandAt hb
    have hbi : s.ring.bands[i] = some b := by simpa [Ring.bandAt, hi] using hb
    unfold Ring.bandHolding
    rw [List.findIdx?_isSome, List.any_eq_true]
    exact ⟨s.ring.bands[i], List.getElem_mem hi, by simp [hbi, hj, Band.composed, Band.holds, hc, h1, h2]⟩

@[simp] theorem settledMode_flight (s : State) : s.settledMode.flight = none := by
  unfold State.settledMode
  split
  · rfl
  · split <;> rfl

theorem flight_none_iff (s : State) : s.head.mode.flight = none ↔ s.head.lineInFlight = false := by
  cases hm : s.head.mode <;> simp [Head.lineInFlight, HeadMode.flight, hm]

/-- The settled state where the front job stays at its row, and its bands are as they were. -/
theorem settledMode_of {s t : State} (hnone : s.jobs.front = none → t.jobs.front = none)
    (hsome : ∀ j, s.jobs.front = some j → ∃ k, t.jobs.front = some k ∧ (t.rowReady k ↔ s.rowReady j)) :
    t.settledMode = s.settledMode := by
  unfold State.settledMode
  cases hj : s.jobs.front with
  | none => rw [hnone hj]
  | some j =>
    obtain ⟨k, hk, hr⟩ := hsome j hj
    rw [hk]
    have hiff : t.nextRowReady k = true ↔ s.nextRowReady j = true := by rw [nextRowReady_iff, nextRowReady_iff, hr]
    simp only [hiff]

/-! ### The arbiter and the fetch (R129) -/

/-- No fetch has a live access in progress. -/
def State.fetchQuiet (s : State) : Prop := ∀ a ∈ s.arbiter.inProgress, a.live = true → a.client ≠ .fetch

/-- A live access in progress was one before. -/
def State.accessFrom (s t : State) : Prop :=
  ∀ a ∈ t.arbiter.inProgress, a.live = true → a ∈ s.arbiter.inProgress

theorem State.fetchQuiet.of {s t : State} (h : s.fetchQuiet) (ha : s.accessFrom t) : t.fetchQuiet :=
  fun a hm hl => h a (ha a hm hl) hl

theorem accessFrom_of_eq {s t : State} (h : t.arbiter = s.arbiter) : s.accessFrom t := fun _ hm _ => h ▸ hm

theorem State.accessFrom.trans {s t u : State} (h : s.accessFrom t) (k : t.accessFrom u) : s.accessFrom u :=
  fun a hm hl => h a (k a hm hl) hl

theorem orphan_accessFrom (s : State) (c : Client) : s.accessFrom (s.orphan c) := by
  intro a hm hl
  obtain ⟨b, hb, rfl⟩ := Option.map_eq_some_iff.mp hm
  split at hl
  · cases hl
  · rename_i hc
    rw [if_neg hc]
    exact hb

/-- An orphaned client has no live access in progress (R129). -/
theorem orphan_quiet (s : State) : (s.orphan .fetch).fetchQuiet := by
  intro a hm hl
  obtain ⟨b, hb, rfl⟩ := Option.map_eq_some_iff.mp hm
  split at hl
  · cases hl
  · rename_i hc
    rw [if_neg hc]
    exact hc

theorem abandonWork_accessFrom (tag : Byte) (s : State) : s.accessFrom (abandonWork tag s) := by
  rcases abandonWork_cases tag s with ⟨h, -⟩ | ⟨h, -⟩ <;> rw [h]
  · exact accessFrom_of_eq rfl
  · exact orphan_accessFrom { s with renderer := .idle } _

@[simp] theorem frontLeaves_arbiter (s : State) : (frontLeaves s).arbiter = s.arbiter := by
  unfold frontLeaves
  split <;> rfl

theorem freeJob_accessFrom (tag : Byte) (keep : Bool) (s : State) : s.accessFrom (freeJob tag keep s) :=
  abandonWork_accessFrom tag ((s.freeJobBands tag keep).freePlacements tag)

theorem completeFront_accessFrom (j : Job) (s : State) : s.accessFrom (completeFront j s) := by
  have h := freeJob_accessFrom j.tag false (post (reportJobDone j) s)
  have h1 : s.accessFrom (post (reportJobDone j) s) := accessFrom_of_eq (post_arbiter _ _)
  exact (h1.trans h).trans (accessFrom_of_eq (by simp [completeFront]))

theorem completeIfDone_accessFrom (s : State) : s.accessFrom (completeIfDone s) := by
  rcases completeIfDone_cases s with h | ⟨j, -, -, -, h⟩ <;> rw [h]
  · exact accessFrom_of_eq rfl
  · exact completeFront_accessFrom j s

theorem abortFrontAtOnce_accessFrom (j : Job) (cause : AbortCause) (s : State) :
    s.accessFrom (abortFrontAtOnce j cause s) :=
  (freeJob_accessFrom j.tag false s).trans (accessFrom_of_eq (by simp [abortFrontAtOnce]))

theorem abortBack_accessFrom (j : Job) (s : State) : s.accessFrom (abortBack j s) :=
  (freeJob_accessFrom j.tag false s).trans (accessFrom_of_eq (by simp [abortBack]))

theorem endAbort_accessFrom (s : State) : s.accessFrom (endAbort s) := by
  unfold endAbort
  split
  · split
    · exact accessFrom_of_eq (by simp)
    · exact accessFrom_of_eq rfl
  · exact accessFrom_of_eq rfl

theorem abortInFlight_accessFrom (cause : AbortCause) (s : State) : s.accessFrom (abortInFlight cause s) := by
  unfold abortInFlight
  split
  · split
    · exact accessFrom_of_eq rfl
    · rename_i j _ _
      exact (freeJob_accessFrom j.tag true (s.updateFront (Job.abort cause))).trans (accessFrom_of_eq (by simp))
  · exact accessFrom_of_eq rfl

/-! ### The label in the middle of a line's event -/

/-- The label's law but for the state of the head channel: the table, the renderer where a look left it, and a history line
of W bytes. -/
structure State.MidLine (s : State) : Prop where
  table : s.Table
  looked : s.lookSettled
  history : s.historyLawful

/-- The label's law at the end of an event. -/
structure State.Label (s : State) : Prop extends s.MidLine where
  head : s.headLawful

/-- The label with no line in flight: the front job goes on, and no fetch has a live access. -/
structure State.BetweenLines (s : State) : Prop extends s.MidLine where
  standing : s.jobs.Standing
  quiet : s.fetchQuiet

theorem State.MidLine.congr {s t : State} (h : s.MidLine) (hj : t.jobs = s.jobs) (hp : t.placements = s.placements)
    (hring : t.ring = s.ring) (hr : t.renderer = s.renderer) (hcfg : t.headCfg = s.headCfg)
    (hproof : t.port.proof = s.port.proof) (hhist : t.head.history.length = s.head.history.length) : t.MidLine where
  table := h.table.congr hj hp hring hr hcfg
  looked := lookSettled_congr h.looked hr hring hj hproof
  history := by
    have := h.history
    unfold State.historyLawful at *
    rw [hhist, hcfg, this]

theorem State.BetweenLines.congr {s t : State} (h : s.BetweenLines) (hj : t.jobs = s.jobs) (hp : t.placements = s.placements)
    (hring : t.ring = s.ring) (hr : t.renderer = s.renderer) (hcfg : t.headCfg = s.headCfg)
    (hproof : t.port.proof = s.port.proof) (hhist : t.head.history.length = s.head.history.length)
    (ha : s.accessFrom t) : t.BetweenLines where
  toMidLine := h.toMidLine.congr hj hp hring hr hcfg hproof hhist
  standing := hj ▸ h.standing
  quiet := h.quiet.of ha

/-- With no line in flight, and no fetch, a settle puts the head channel where its law wants it (R103). -/
theorem settle_headLawful {s : State} (hq : s.fetchQuiet) (hl : s.head.lineInFlight = false) : (settle s).headLawful := by
  have hm : (settle s).head.mode.flight = none := by rw [settle_mode hl, settledMode_flight]
  refine ⟨fun _ => settle_settled hl, fun x hx => ?_, fun a ha hlive hc => ?_⟩
  · rw [hm] at hx
    cases hx
  · rw [settle_arbiter] at ha
    exact absurd hc (hq a ha hlive)

theorem settle_label {s : State} (h : s.BetweenLines) (hl : s.head.lineInFlight = false) : (settle s).Label where
  toMidLine := h.toMidLine.congr (by simp) (by simp) (by simp) (by simp) (by simp) (settle_labelOnly s).proof (by simp)
  head := settle_headLawful h.quiet hl

/-- A front job's history after it has left: W bytes of zero for the job promoted, or as it was (R112). -/
theorem frontLeaves_historyLawful {s : State} (h : s.historyLawful) : (frontLeaves s).historyLawful := by
  unfold State.historyLawful at *
  rw [frontLeaves_history, (frontLeaves_labelOnly s).headCfg]
  split
  · exact h
  · exact List.length_replicate

section
variable {s : State} (h : s.MidLine)
include h

theorem completeFront_midLine {j k : Job} (hj : s.jobs.front = some j) (htag : k.tag = j.tag) : (completeFront k s).MidLine where
  table := completeFront_table h.table hj htag
  looked := look_lookSettled _
  history := by
    have hh := h.history
    unfold State.historyLawful at *
    rw [(completeFront_spec k s).2.2, (completeFront_labelOnly k s).headCfg]
    split
    · exact hh
    · exact List.length_replicate

theorem completeIfDone_midLine : (completeIfDone s).MidLine := by
  rcases completeIfDone_cases s with he | ⟨j, hj, -, -, he⟩ <;> rw [he]
  · exact h
  · exact completeFront_midLine h hj rfl

theorem abortFrontAtOnce_midLine {j : Job} (hj : s.jobs.front = some j) (cause : AbortCause) :
    (abortFrontAtOnce j cause s).MidLine where
  table := abortFrontAtOnce_table h.table hj cause
  looked := look_lookSettled _
  history := by
    have hh : (post (reportJobAborted j cause) (freeJob j.tag false s)).historyLawful := by
      have := h.history
      unfold State.historyLawful at *
      rwa [post_head, freeJob_head, post_headCfg, (freeJob_labelOnly _ _ s).headCfg]
    have := frontLeaves_historyLawful hh
    unfold State.historyLawful at *
    rwa [abortFrontAtOnce, look_head, look_headCfg]

theorem endAbort_midLine : (endAbort s).MidLine := by
  refine ⟨endAbort_table h.table, ?_, ?_⟩
  · unfold endAbort
    split
    · split
      · exact look_lookSettled _
      · exact h.looked
    · exact h.looked
  · have hh := h.history
    cases hj : s.jobs.front with
    | none =>
      have he : endAbort s = s := by simp [endAbort, hj]
      rwa [he]
    | some j =>
      cases hc : j.state with
      | aborting cause =>
        unfold State.historyLawful at *
        rw [(endAbort_spec hj hc).2.2, (endAbort_labelOnly s).headCfg]
        split
        · exact hh
        · exact List.length_replicate
      | _ => rwa [endAbort_other hj (by simp [Job.isAborting, hc])]

theorem abortInFlight_midLine (cause : AbortCause) : (abortInFlight cause s).MidLine := by
  refine ⟨abortInFlight_table h.table cause, ?_, ?_⟩
  · unfold abortInFlight
    split
    · split
      · exact h.looked
      · exact look_lookSettled _
    · exact h.looked
  · have hh := h.history
    unfold State.historyLawful at *
    rwa [abortInFlight_mode, (abortInFlight_labelOnly cause s).headCfg]

/-- A completion where it is due, of a job not ABORTING. -/
theorem completeIfDone_between (hq : s.fetchQuiet) (ha : ∀ j ∈ s.jobs.front, j.isAborting = false) :
    (completeIfDone s).BetweenLines :=
  ⟨completeIfDone_midLine h, (completeIfDone_mid h.table.mid ha).2, hq.of (completeIfDone_accessFrom s)⟩

/-- A row consumed leaves the renderer where it rests (R78). -/
theorem consumes_midLine {b : Nat} (hb : b ≤ 1)
    (hcons : ∀ j ∈ s.jobs.front, ∀ i c, s.ring.bandAt i = some c → c.job = j.tag → c.state ≠ .rendering →
      j.done + 1 < c.first + c.count) : (s.updateFront (Job.consumes b)).MidLine where
  table := consumes_table h.table hb hcons
  looked := by
    obtain ⟨hn, hs⟩ := toRender_mapFront (t := s.jobs) (f := Job.consumes b) fun j => ⟨rfl, rfl, rfl, rfl, rfl, rfl⟩
    exact lookSettled_of h.looked rfl rfl hn hs id
  history := h.history

end

/-! ### A step taken with no line in flight (R105 to R107, R113, R114) -/

theorem clearHistory_midLine {s : State} (h : s.MidLine) : s.clearHistory.MidLine := by
  refine h.congr rfl rfl rfl rfl rfl rfl ?_
  have := h.history
  unfold State.historyLawful at this
  rw [this]
  exact List.length_replicate

section
variable {s : State} (h : s.BetweenLines) (hl : s.head.lineInFlight = false)
include h hl

/-- A row consumed with no line in flight, whatever is posted. -/
theorem consumed_label {b : Nat} (hb : b ≤ 1)
    (hcons : ∀ j ∈ s.jobs.front, ∀ i c, s.ring.bandAt i = some c → c.job = j.tag → c.state ≠ .rendering →
      j.done + 1 < c.first + c.count) {t : State} (hpost : t = s.clearHistory.updateFront (Job.consumes b) ∨
        ∃ r, t = post r (s.clearHistory.updateFront (Job.consumes b))) : (settle (completeIfDone t)).Label := by
  have hm := consumes_midLine (clearHistory_midLine h.toMidLine) hb hcons
  have hfront : ∀ j ∈ (s.clearHistory.updateFront (Job.consumes b)).jobs.front, j.isAborting = false := by
    intro j hj
    obtain ⟨i, hi, rfl⟩ := Option.map_eq_some_iff.mp hj
    exact (h.standing i hi).1
  have hq : (s.clearHistory.updateFront (Job.consumes b)).fetchQuiet := h.quiet
  rcases hpost with rfl | ⟨r, rfl⟩
  · exact settle_label (completeIfDone_between hm hq hfront) (by simpa [Head.lineInFlight] using hl)
  · refine settle_label (completeIfDone_between (hm.congr (by simp) (by simp) (by simp) (by simp) (by simp) (by simp) (by simp))
      (hq.of (accessFrom_of_eq (by simp))) (by rw [post_jobs]; exact hfront)) ?_
    simpa [Head.lineInFlight] using hl

theorem trailingStep_label {j : Job} (hj : s.jobs.front = some j) (hlen : j.length ≤ j.done) : (trailingStep s).Label :=
  consumed_label h hl (Nat.zero_le 1) (trailing_consumes h.table hj hlen) (.inl rfl)

theorem underrunStep_label {j : Job} (hj : s.jobs.front = some j) (hready : ¬ s.rowReady j) : (underrunStep j s).Label := by
  unfold underrunStep
  cases j.policy with
  | blank => exact consumed_label h hl (Nat.le_refl 1) (blank_consumes h.table hj hready) (.inr ⟨_, rfl⟩)
  | abort =>
    refine settle_label ⟨abortFrontAtOnce_midLine h.toMidLine hj .underrun, (abortFrontAtOnce_mid h.table.mid hj .underrun).2,
      h.quiet.of (abortFrontAtOnce_accessFrom _ _ s)⟩ ?_
    simpa [abortFrontAtOnce, Head.lineInFlight] using hl

omit hl in
/-- A line is started for the front job's next row (R107). -/
theorem startLine_label {i : Nat} {j : Job} (hj : s.jobs.front = some j) (hlen : j.done < j.length)
    (hhold : s.ring.bandHolding j.tag j.done = some i) : (startLine j i s).Label := by
  obtain ⟨b, hb, hbj, hc, hh⟩ := bandHolding_eq_some hhold
  simp only [Band.composed, Band.holds, decide_eq_true_eq] at hc hh
  have hst : b.state ≠ .rendering := by
    rcases hc with hc | hc <;> simp [hc]
  have htable := printing_table h.table hb hst hj hbj hh.1
  simp only [startLine, hb]
  refine ⟨⟨htable.congr rfl rfl rfl rfl rfl, ?_, h.history⟩, fun hn => (by cases hn), fun x hx => ?_, fun a ha hlive hc => ?_⟩
  · refine lookSettled_of h.looked rfl rfl id (fun k hk => ⟨k, hk, rfl, rfl, rfl, rfl, rfl⟩) ?_
    have hlt := lt_of_bandAt hb
    unfold State.claimable
    simp only [State.withMode_ring, State.setBand_ring, State.withMode_port, State.setBand_port, List.getElem?_set]
    split
    · rename_i heq
      simp [heq ▸ hlt]
    · exact id
  · obtain rfl := Option.some.inj hx
    refine ⟨⟨j, hj, rfl, rfl, hlen, fun he => (by cases he)⟩, ⟨{ b with state := .printing }, ?_, rfl, rfl⟩, Nat.zero_le _,
      fun _ => rfl⟩
    exact (bandAt_setBand s i i _).trans (if_pos ⟨rfl, lt_of_bandAt hb⟩)
  · exact absurd hc (h.quiet a ha hlive)

/-- A step taken in ARMED, or served from the latch there (R105 to R107). -/
theorem armedStep_label {j : Job} (hj : s.jobs.front = some j) : (armedStep j s).Label := by
  unfold armedStep
  split
  · exact trailingStep_label h hl hj (by assumption)
  · rename_i hlen
    cases hhold : s.ring.bandHolding j.tag j.done with
    | some i => exact startLine_label h hj (Nat.not_le.mp hlen) hhold
    | none =>
      refine underrunStep_label h hl hj fun hr => ?_
      have := (nextRowReady_iff s j).mpr hr
      simp [State.nextRowReady, hlen, hhold] at this

theorem servedStep_label : (servedStep s).Label := by
  unfold servedStep
  cases hj : s.jobs.front with
  | none => exact settle_label h hl
  | some j =>
    dsimp only
    split
    · exact armedStep_label h hl hj
    · rename_i hr
      exact underrunStep_label h hl hj fun hready => hr ((nextRowReady_iff s j).mpr hready)

end

/-- The latch is served once a line has ended (R117). -/
theorem serveLatch_label {s : State} (h : s.BetweenLines) : (serveLatch s).Label := by
  have hhead : (s.headed .idle false).BetweenLines := h.congr rfl rfl rfl rfl rfl rfl rfl (accessFrom_of_eq rfl)
  rw [serveLatch_eq]
  split
  · exact servedStep_label hhead rfl
  · exact settle_label hhead rfl

end Sys2Proof.Machine
end

section
/-! The line in flight keeps the label's law: its passes, its end, an abort while it goes on, and every line step. -/

namespace Sys2Proof.Machine

/-! ### The line in flight (R101, R107, R116) -/

/-- A line is the front job's next row, held in a PRINTING band; an ending line is of an ABORTING job. -/
structure Line.OnTrack (line : Line) (s : State) : Prop where
  job : ∃ j ∈ s.jobs.front, line.job = j.tag ∧ line.row = j.done ∧ line.row < j.length ∧
    (line.ending = true → j.isAborting = true)
  band : ∃ b ∈ s.ring.bandAt line.band, b.state = .printing ∧ line.addr = s.lineAddr line.band b.first line.row

/-- A line with all its bytes, whose fetch is over. -/
structure State.Carries (s : State) (line : Line) : Prop extends s.MidLine where
  onTrack : line.OnTrack s
  bytes : line.bytes.length = s.headCfg.dots / 8
  quiet : s.fetchQuiet

/-- The law of the label looks at no more than this. -/
theorem State.Label.congr {s t : State} (h : s.Label) (hj : t.jobs = s.jobs) (hp : t.placements = s.placements)
    (hring : t.ring = s.ring) (hr : t.renderer = s.renderer) (hcfg : t.headCfg = s.headCfg)
    (hproof : t.port.proof = s.port.proof) (hmode : t.head.mode = s.head.mode)
    (hhist : t.head.history.length = s.head.history.length) (ha : s.accessFrom t) : t.Label where
  toMidLine := h.toMidLine.congr hj hp hring hr hcfg hproof hhist
  head := by
    have hready : ∀ j, t.rowReady j ↔ s.rowReady j := fun j => by
      unfold State.rowReady
      rw [hring]
    have hsettled : t.settledMode = s.settledMode := settledMode_of (fun hn => hj ▸ hn) fun j hj' => ⟨j, hj ▸ hj', hready j⟩
    have hfetch : fetchRequest t = fetchRequest s := by
      unfold fetchRequest
      rw [hmode, hcfg]
    obtain ⟨h1, h2, h3⟩ := h.head
    refine ⟨fun hn => ?_, fun x hx => ?_, fun a hm hl hc => ?_⟩
    · rw [hmode, hsettled]
      exact h1 (hmode ▸ hn)
    · rw [hmode] at hx
      obtain ⟨hjob, hband, hbytes, hend⟩ := h2 x hx
      refine ⟨hj ▸ hjob, ?_, hcfg ▸ hbytes, hend⟩
      unfold State.lineAddr State.bandAddr at *
      rw [hring, hcfg]
      exact hband
    · rw [hfetch]
      exact h3 a (ha a hm hl) hl hc

theorem State.Label.sameHead {s t : State} (h : s.Label) (ht : t = { s with head := t.head })
    (hmode : t.head.mode = s.head.mode) (hhist : t.head.history = s.head.history) : t.Label :=
  h.congr (by rw [ht]) (by rw [ht]) (by rw [ht]) (by rw [ht]) (by rw [ht]) (by rw [ht]) hmode (by rw [hhist])
    (accessFrom_of_eq (by rw [ht]))

section
variable {s : State} {phase : LinePhase} {line : Line} (h : s.Label) (hm : s.head.mode = .inFlight phase line)
include h hm

theorem flight_onTrack : line.OnTrack s := by
  obtain ⟨hjob, hband, -, -⟩ := h.head.2.1 (phase, line) (by rw [hm]; rfl)
  exact ⟨hjob, hband⟩

/-- Past its fetch a line carries all its bytes (R108). -/
theorem flight_carries (hp : phase ≠ .fetch) : s.Carries line where
  toMidLine := h.toMidLine
  onTrack := flight_onTrack h hm
  bytes := by
    obtain ⟨-, -, hbytes, -⟩ := h.head.2.1 (phase, line) (by rw [hm]; rfl)
    rwa [if_neg hp] at hbytes
  quiet := by
    intro a ha hl hc
    have hr := h.head.2.2 a ha hl hc
    unfold fetchRequest at hr
    rw [hm] at hr
    cases phase with
    | fetch => exact hp rfl
    | _ => cases hr

/-- Only a line in a strobe pulse is ending (R116). -/
theorem flight_going (hp : phase.isStrobe = false) : line.ending = false :=
  (h.head.2.1 (phase, line) (by rw [hm]; rfl)).2.2.2 hp

end

/-- A line goes on in a phase past its fetch. -/
theorem State.Carries.label {s : State} {line : Line} (h : s.Carries line) {phase : LinePhase} (hp : phase ≠ .fetch)
    (hend : phase.isStrobe = false → line.ending = false) : (s.withMode (.inFlight phase line)).Label where
  toMidLine := h.toMidLine.congr rfl rfl rfl rfl rfl rfl rfl
  head := by
    refine ⟨fun hn => (by cases hn), fun x hx => ?_, fun a ha hl hc => absurd hc (h.quiet a ha hl)⟩
    obtain rfl := Option.some.inj hx
    refine ⟨h.onTrack.job, h.onTrack.band, ?_, hend⟩
    rw [if_neg hp]
    exact h.bytes

/-- A line carried on under a change of the group, the new dots or the reports. -/
theorem State.Carries.congr {s t : State} {line line' : Line} (h : s.Carries line) (hj : t.jobs = s.jobs)
    (hp : t.placements = s.placements) (hring : t.ring = s.ring) (hr : t.renderer = s.renderer)
    (hcfg : t.headCfg = s.headCfg) (hproof : t.port.proof = s.port.proof)
    (hhist : t.head.history.length = s.head.history.length) (ha : s.accessFrom t)
    (hline : line' = { line with newDots := line'.newDots, group := line'.group }) : t.Carries line' where
  toMidLine := h.toMidLine.congr hj hp hring hr hcfg hproof hhist
  onTrack := by
    obtain ⟨hjob, hband⟩ := h.onTrack
    unfold State.lineAddr State.bandAddr at hband
    refine ⟨?_, ?_⟩
    · rw [hline, hj]
      exact hjob
    · unfold State.lineAddr State.bandAddr
      rw [hline, hring, hcfg]
      exact hband
  bytes := by
    rw [hline, hcfg]
    exact h.bytes
  quiet := h.quiet.of ha

/-! ### The end of a line (R110, R116, R120) -/

/-- The row of a printed line consumed, and its band FREE where the row was its last. -/
theorem State.Carries.released {s : State} {line : Line} (h : s.Carries line) :
    (releaseBand line (printed line s)).MidLine := by
  obtain ⟨j, hj, -, hrow, -, -⟩ := h.onTrack.job
  obtain ⟨b, hb, hst, -⟩ := h.onTrack.band
  refine ⟨printed_table h.table hj hb hst hrow, ?_, ?_⟩
  · rcases releaseBand_cases line (printed line s) with he | ⟨c, -, -, he⟩ <;> rw [he]
    · obtain ⟨hn, hs⟩ := toRender_mapFront (t := s.jobs) (f := Job.consumes 0) fun j => ⟨rfl, rfl, rfl, rfl, rfl, rfl⟩
      exact lookSettled_of h.looked rfl rfl hn hs id
    · exact look_lookSettled _
  · unfold State.historyLawful
    rw [releaseBand_head, releaseBand_headCfg]
    exact h.bytes

theorem endAbortOrComplete_accessFrom (s : State) : s.accessFrom (endAbortOrComplete s) := by
  unfold endAbortOrComplete
  split
  · split
    · exact endAbort_accessFrom s
    · exact completeIfDone_accessFrom s
  · exact accessFrom_of_eq rfl

theorem endAbortOrComplete_midLine {s : State} (h : s.MidLine) : (endAbortOrComplete s).MidLine := by
  unfold endAbortOrComplete
  split
  · split
    · exact endAbort_midLine h
    · exact completeIfDone_midLine h
  · exact h

/-- A printed line ends (R110, R117). -/
theorem State.Carries.endLine {s : State} {line : Line} (h : s.Carries line) : (endLine line s).Label := by
  have hrel := h.released
  rw [endLine_eq]
  refine serveLatch_label ⟨endAbortOrComplete_midLine hrel, (endAbortOrComplete_stands hrel.table.mid).standing, ?_⟩
  refine (h.quiet.of (accessFrom_of_eq ?_)).of (endAbortOrComplete_accessFrom _)
  rw [releaseBand_arbiter]
  rfl

/-- A line of an ABORTING job is abandoned (R116, R120, R129). -/
theorem abandonLine_label {s : State} (h : s.MidLine) (ha : ∀ j ∈ s.jobs.front, j.isAborting = true) :
    (abandonLine s).Label := by
  have hmid := endAbort_midLine h
  have hstand := (endAbort_mid h.table.mid fun j hj hn => by rw [ha j hj] at hn; cases hn).2
  exact serveLatch_label (s := (endAbort s).orphan .fetch) ⟨hmid.congr rfl rfl rfl rfl rfl rfl rfl, hstand, orphan_quiet _⟩

/-! ### The passes (R109, R110, R118) -/

/-- What a pulse begun leaves of the line's surroundings. -/
theorem markStarted_carries {s : State} {line : Line} (h : s.Carries line) (tag : Byte) : (markStarted tag s).Carries line := by
  unfold markStarted
  split
  · exact h
  · exact h.congr (by simp) (by simp) (by simp) (by simp) (by simp) (by simp) (by simp) (accessFrom_of_eq (by simp)) rfl

theorem startPulse_carried {s : State} {line : Line} (h : s.Carries line) (p : Pass) : (startPulse p line s).Label :=
  (markStarted_carries h line.job).label (phase := .strobe p (s.headCfg.pulsePeriods p)) (by simp) (fun hn => (by cases hn))

/-- A pass takes up its next group, or ends (R110, R118). -/
theorem takeUpGroup_label {s : State} {line : Line} (h : s.Carries line) (hend : line.ending = false) (p : Pass) (k : Nat) :
    (takeUpGroup p k line s).Label := by
  unfold takeUpGroup
  cases nextGroup s.headCfg (line.passBytes p) k with
  | some g =>
    have hg : s.Carries { line with group := g } := h.congr rfl rfl rfl rfl rfl rfl rfl (accessFrom_of_eq rfl) rfl
    dsimp only
    split
    · exact hg.label (by simp) fun _ => hend
    · exact startPulse_carried hg p
  | none =>
    cases p with
    | pre => exact h.label (phase := .shift .main s.headCfg.shiftPeriods) (by simp) fun _ => hend
    | main => exact h.endLine

/-- A line whose bytes have been fetched goes on, or ends when it is all zeros (R108). -/
theorem lineFetched_label {s : State} {line : Line} (h : s.Carries line) (hend : line.ending = false) :
    (lineFetched line s).Label := by
  have hdots : ∀ dots, s.Carries { line with newDots := dots } := fun dots =>
    h.congr rfl rfl rfl rfl rfl rfl rfl (accessFrom_of_eq rfl) rfl
  unfold lineFetched
  split
  · dsimp only
    split
    · exact (hdots _).label (phase := .shift .main s.headCfg.shiftPeriods) (by simp) fun _ => hend
    · exact (hdots _).label (phase := .shift .pre s.headCfg.shiftPeriods) (by simp) fun _ => hend
  · exact h.endLine

/-! ### An abort with a line in flight (R18, R116, R120) -/

@[simp] theorem look_base (s : State) : (look s).ring.base = s.ring.base := by
  rcases look_cases s with ⟨e, -⟩ | ⟨r, -, e⟩ | ⟨j, -, -, -, -, e⟩ <;> rw [e]
  rfl

/-- The line goes on where its job is aborted, and its PRINTING band stays (R18). -/
theorem abortInFlight_onTrack {s : State} {line : Line} (h : line.OnTrack s) (cause : AbortCause) :
    line.OnTrack (abortInFlight cause s) := by
  obtain ⟨⟨j, hj, htag, hrow, hlen, hend⟩, b, hb, hst, haddr⟩ := h
  cases ha : j.isAborting with
  | true =>
    rw [abortInFlight_aborting hj ha]
    exact ⟨⟨j, hj, htag, hrow, hlen, hend⟩, b, hb, hst, haddr⟩
  | false =>
    have hfreed := freeJob_withJobs_freed j.tag true s ⟨some { j with state := .aborting cause }, s.jobs.back⟩
    have hcfg := (abortInFlight_labelOnly cause s).headCfg
    rw [abortInFlight_front hj ha] at hcfg ⊢
    refine ⟨⟨{ j with state := .aborting cause }, by simp, htag, hrow, hlen, fun _ => rfl⟩, b,
      look_bandAt ((hfreed.bandAt _ b).mpr ⟨hb, .inr ⟨rfl, hst⟩⟩), hst, ?_⟩
    unfold State.lineAddr State.bandAddr at haddr ⊢
    rw [hcfg, look_h, look_base, hfreed.base, hfreed.h]
    exact haddr

/-- After an abort with a line in flight the front job is ABORTING. -/
theorem abortInFlight_isAborting (cause : AbortCause) (s : State) :
    ∀ j ∈ (abortInFlight cause s).jobs.front, j.isAborting = true := by
  intro k hk
  rw [abortInFlight_jobs] at hk
  obtain ⟨j, -, rfl⟩ := Option.map_eq_some_iff.mp hk
  unfold Job.abort
  split
  · assumption
  · rfl

theorem abortInFlight_label {s : State} (h : s.Label) (hl : s.head.lineInFlight = true) (cause : AbortCause) :
    (abortInFlight cause s).Label where
  toMidLine := abortInFlight_midLine h.toMidLine cause
  head := by
    have hcfg := (abortInFlight_labelOnly cause s).headCfg
    obtain ⟨-, h2, h3⟩ := h.head
    refine ⟨fun hn => ?_, fun x hx => ?_, fun a hm hlive hc => ?_⟩
    · rw [abortInFlight_mode] at hn
      rw [(flight_none_iff s).mp hn] at hl
      cases hl
    · rw [abortInFlight_mode] at hx
      obtain ⟨hjob, hband, hbytes, hend⟩ := h2 x hx
      obtain ⟨hjob', hband'⟩ := abortInFlight_onTrack ⟨hjob, hband⟩ cause
      exact ⟨hjob', hband', hcfg ▸ hbytes, hend⟩
    · have hr := h3 a (abortInFlight_accessFrom cause s a hm hlive) hlive hc
      unfold fetchRequest at hr ⊢
      rwa [abortInFlight_mode, hcfg]

/-! ### The ends of the phases, and a line step -/

section
variable {s : State} (h : s.Label)
include h

theorem endShift_label : (endShift s).Label := by
  unfold endShift
  split
  · rename_i p n line hm
    exact takeUpGroup_label (flight_carries h hm (by simp)) (flight_going h hm rfl) p 1
  · exact h

theorem endPulse_label : (endPulse s).Label := by
  unfold endPulse
  split
  · rename_i p n line hm
    split
    · rename_i hend
      obtain ⟨j, hj, -, -, -, ha⟩ := (flight_onTrack h hm).job
      exact abandonLine_label h.toMidLine fun k hk => Option.some.inj (Eq.trans (Eq.symm hj) hk) ▸ ha hend
    · rename_i hend
      exact takeUpGroup_label (flight_carries h hm (by simp)) (by simpa using hend) p _
  · exact h

/-- A fetch whose access is not in progress ends (R108). -/
theorem endFetch_label (hq : s.fetchQuiet) : (endFetch s).Label := by
  unfold endFetch
  split
  · rename_i line hm
    have hline : s.Carries (line.fetched s.mem s.headCfg.lineBytes) := by
      refine ⟨h.toMidLine, ⟨(flight_onTrack h hm).job, (flight_onTrack h hm).band⟩, ?_, hq⟩
      obtain ⟨-, -, hbytes, -⟩ := h.head.2.1 (.fetch, line) (by rw [hm]; rfl)
      rw [if_pos rfl] at hbytes
      simp only [Line.fetched, Memory.readRange, List.length_append, List.length_map, List.length_range, HeadConfig.lineBytes]
      dsimp only at hbytes
      omega
    have hend := flight_going h hm rfl
    exact lineFetched_label hline hend
  · exact h

theorem expireHold_label : (expireHold s).Label := by
  unfold expireHold
  split
  · rename_i hm
    exact abandonLine_label (abortInFlight_label h (by simp [Head.lineInFlight, hm]) .headHot).toMidLine
      (abortInFlight_isAborting _ s)
  · exact h

theorem releaseHold_label : (releaseHold s).Label := by
  unfold releaseHold
  split
  · rename_i p n line hm
    exact startPulse_carried (flight_carries h hm (by simp)) p
  · exact h

/-- One period of a phase of the line (R109, R110, R118). -/
theorem timers_label : (timers s).Label := by
  unfold timers
  split
  · rename_i p n line hm
    split
    · exact endShift_label h
    · exact (flight_carries h hm (by simp)).label (by simp) fun _ => flight_going h hm rfl
  · rename_i p n line hm
    split
    · exact endPulse_label h
    · exact (flight_carries h hm (by simp)).label (by simp) fun hn => (by cases hn)
  · rename_i p n line hm
    split
    · exact expireHold_label h
    · exact (flight_carries h hm (by simp)).label (by simp) fun _ => flight_going h hm rfl
  · exact h

/-- A second step while a line is in flight (R116). -/
theorem loseStep_label {phase : LinePhase} {line : Line} (hm : s.head.mode = .inFlight phase line) :
    (loseStep phase line s).Label := by
  have hl : s.head.lineInFlight = true := by simp [Head.lineInFlight, hm]
  have habort := abortInFlight_label h hl .stepLost
  have hmode : (abortInFlight .stepLost s).head.mode = .inFlight phase line := by rw [abortInFlight_mode, hm]
  have hfront := abortInFlight_isAborting .stepLost s
  rw [loseStep_eq, headed_comm (fun d s => abortInFlight_within d s _) (abortInFlight_labelOnly .stepLost)]
  split
  · rename_i hstrobe
    have hp : phase ≠ .fetch := by
      rintro rfl
      cases hstrobe
    obtain ⟨hmid, ⟨⟨j, hj, htag, hrow, hlen, -⟩, hband⟩, hbytes, hq⟩ := flight_carries habort hmode hp
    have hc : (abortInFlight .stepLost s).Carries { line with ending := true } :=
      ⟨hmid, ⟨⟨j, hj, htag, hrow, hlen, fun _ => hfront j hj⟩, hband⟩, hbytes, hq⟩
    exact (hc.label hp fun hn => by rw [hstrobe] at hn; cases hn).sameHead rfl rfl rfl
  · exact abandonLine_label (habort.toMidLine.congr rfl rfl rfl rfl rfl rfl rfl) hfront

/-- With no line in flight the label stands between lines. -/
theorem between_of_label (hj : s.jobsLawful) (hl : s.head.lineInFlight = false) : s.BetweenLines where
  toMidLine := h.toMidLine
  standing := (stands_of_lawful hj hl).standing
  quiet := by
    intro a ha hlive hc
    have hr := h.head.2.2 a ha hlive hc
    cases hm : s.head.mode with
    | inFlight phase line => simp [Head.lineInFlight, hm] at hl
    | _ => simp [fetchRequest, hm] at hr

/-- A line step (R105). -/
theorem lineStepOp_label (hj : s.jobsLawful) : (lineStepOp s).Label := by
  have settled : s.head.lineInFlight = false → s.head.mode = s.settledMode := fun hl => h.head.1 ((flight_none_iff s).mpr hl)
  unfold lineStepOp
  split
  · split
    · exact h
    · rename_i j hm hf
      have hl : s.head.lineInFlight = false := by simp [Head.lineInFlight, hm]
      refine underrunStep_label (between_of_label h hj hl) hl hf fun hready => ?_
      have hs := settled hl
      simp [hm, State.settledMode, hf, (nextRowReady_iff s j).mpr hready] at hs
    · rename_i j hm hf
      have hl : s.head.lineInFlight = false := by simp [Head.lineInFlight, hm]
      exact armedStep_label (between_of_label h hj hl) hl hf
    · rename_i phase line _ hm
      split
      · exact h
      · split
        · exact loseStep_label h hm
        · exact h.sameHead rfl rfl rfl
    · exact h
  · exact h

end

end Sys2Proof.Machine
end

section
/-! The renderer's progress in its band, and the completion of a band, keep the label's law (R76, R90, R96). -/

namespace Sys2Proof.Machine

/-! ### The readings of descriptors (R47, R50) -/

theorem findGlyph_mem {es : List GlyphEntry} {code : Byte} {g : RamGlyph} (h : findGlyph es code = some g) :
    ∃ e ∈ es, e.code = code ∧ e.glyph = g := by
  induction es with
  | nil => cases h
  | cons e es ih =>
    unfold findGlyph at h
    split at h
    · exact ⟨e, List.mem_cons_self .., by assumption, Option.some.inj h⟩
    · obtain ⟨e', he', hrest⟩ := ih h
      exact ⟨e', List.mem_cons_of_mem _ he', hrest⟩

/-- What a reading of a code finds: a RAM descriptor of the store, or the power-on descriptor (R47, R49). -/
theorem glyph_cases (s : State) (code : Byte) :
    (∃ e ∈ s.glyphs, e.code = code ∧ s.glyph code = .ram e.glyph) ∨ s.glyph code = defaultGlyph code := by
  unfold State.glyph
  cases hf : findGlyph s.glyphs code with
  | none => exact .inr rfl
  | some g =>
    obtain ⟨e, he, hc, rfl⟩ := findGlyph_mem hf
    exact .inl ⟨e, he, hc, rfl⟩

/-- The footprint of every descriptor lies inside memory (R50, R52). -/
theorem glyph_inside {s : State} (h : s.glyphsLawful) (code : Byte) : (s.glyph code).inside = true := by
  rcases glyph_cases s code with ⟨e, he, -, hg⟩ | hg <;> rw [hg]
  · obtain ⟨-, -, -, -, -, -, hin⟩ := h.2 e he
    exact decide_eq_true hin
  · unfold defaultGlyph
    split <;> rfl

/-! ### The renderer's progress -/

/-- The work goes on in its band: its place stays in range, and it draws no copy that was not still to draw. -/
structure Work.GoesOn (s : State) (w w' : Work) : Prop where
  band : w'.band = w.band
  job : w'.job = w.job
  first : w'.first = w.first
  count : w'.count = w.count
  inRange : w'.inRange s
  inside : w'.cursor.inside = true
  todo : ∀ c ∈ w'.todo, c ∈ w.todo

theorem enter_todo (w : Work) (ps : List Placement) (todo : List CopyRef) : ∀ c ∈ (w.enter ps todo).todo, c ∈ todo := by
  induction todo with
  | nil => exact fun c hc => hc
  | cons c cs ih =>
    cases hf : findPlacement ps c.handle with
    | none =>
      simp only [Work.enter, hf]
      exact fun x hx => List.mem_cons_of_mem _ (ih x hx)
    | some p =>
      simp only [Work.enter, hf]
      exact fun x hx => hx

/-- At the start of a copy the cursor holds no reading. -/
theorem enter_inside (w : Work) (ps : List Placement) (todo : List CopyRef) : (w.enter ps todo).cursor.inside = true := by
  induction todo with
  | nil => rfl
  | cons c cs ih =>
    cases hf : findPlacement ps c.handle with
    | none =>
      simp only [Work.enter, hf]
      exact ih
    | some p =>
      rcases kind_cases p with ⟨spacing, codes, hk⟩ | hk
      · rw [enter_glyphs hf hk]
        rfl
      · rw [enter_other hf hk]
        rfl

/-- An access performed (R76). -/
theorem advance_goesOn {s : State} {w : Work} (h : w.inRange s) (hin : w.cursor.inside = true) (v : Byte) :
    w.GoesOn s (w.advance s v) := by
  obtain ⟨hb, hj, hf, hc⟩ := advance_band w s v
  have hrest : (w.advance s v).cursor.inside = true ∧ ∀ c ∈ (w.advance s v).todo, c ∈ w.todo := by
    cases hcu : w.cursor with
    | clearing n =>
      simp only [Work.advance, hcu]
      split
      · exact ⟨enter_inside .., fun c hc => enter_todo _ _ _ c hc⟩
      · exact ⟨rfl, fun _ hx => hx⟩
    | drawing laid row src col held =>
      rw [hcu] at hin
      simp only [Work.advance, hcu]
      cases hx : w.current s.placements with
      | none => exact ⟨by rw [hcu]; exact hin, fun _ hx => hx⟩
      | some x =>
        dsimp only
        split
        · exact ⟨hin, fun _ hx => hx⟩
        · cases held with
          | none => exact ⟨hin, fun _ hx => hx⟩
          | some old =>
            dsimp only
            split
            · exact ⟨hin, fun _ hx => hx⟩
            · split
              · exact ⟨hin, fun _ hx => hx⟩
              · exact ⟨enter_inside .., fun c hc => List.mem_of_mem_tail (enter_todo _ _ _ c hc)⟩
    | _ =>
      simp only [Work.advance, hcu]
      exact ⟨rfl.trans (hcu ▸ hin), fun _ hx => hx⟩
  exact ⟨hb, hj, hf, hc, advance_inRange h v, hrest.1, hrest.2⟩

/-- A reading taken (R90). -/
theorem read_goesOn {s : State} {w : Work} (hg : s.glyphsLawful) (h : w.inRange s) (hin : w.cursor.inside = true) :
    w.GoesOn s (w.read s) := by
  obtain ⟨htodo, hcur⟩ := h
  cases hcu : w.cursor with
  | reading laid =>
    simp only [Work.cursorInRange, hcu] at hcur
    obtain ⟨⟨c, p⟩, hx, hlen⟩ := hcur
    have hx' : w.current s.placements = some (c, p) := hx
    obtain ⟨rest, hrest, hfind⟩ := current_eq_some hx'
    obtain ⟨p', hp', hrow, hcol, -⟩ := htodo c (by rw [hrest]; exact List.mem_cons_self ..)
    obtain rfl : p' = p := Option.some.inj (Eq.trans (Eq.symm hp') hfind)
    rcases kind_cases p' with ⟨spacing, codes, hk⟩ | hk
    · have hlt : laid.length < codes.length := by simpa [Placement.codeCount, hk] using hlen
      have hcode : codes[laid.length]? = some codes[laid.length] := List.getElem?_eq_getElem hlt
      have hlaid : (s.layNext p'.left spacing laid codes[laid.length]).all (fun l => l.desc.inside) = true := by
        rw [hcu] at hin
        simp only [Cursor.inside] at hin
        simp only [State.layNext, List.all_append, hin, List.all_cons, List.all_nil, glyph_inside hg, Bool.and_self]
      simp only [Work.read, hcu, hx', hk, hcode]
      split
      · rename_i hmore
        exact ⟨rfl, rfl, rfl, rfl, ⟨htodo, ⟨(c, p'), hx', by simpa [Placement.codeCount, hk] using hmore⟩⟩, hlaid,
          fun _ hx => hx⟩
      · exact ⟨rfl, rfl, rfl, rfl, ⟨htodo, ⟨(c, p'), hx', Nat.le_refl _, hrow, hcol, Nat.zero_le _⟩⟩, hlaid, fun _ hx => hx⟩
    · exfalso
      cases hkind : p'.kind with
      | glyphs spacing codes => exact hk spacing codes hkind
      | _ => simp [Placement.codeCount, hkind] at hlen
  | _ =>
    have he : w.read s = w := by simp only [Work.read, hcu]
    rw [he]
    exact ⟨rfl, rfl, rfl, rfl, ⟨htodo, hcur⟩, hin, fun _ hx => hx⟩

/-- The work goes on: the law in the middle of an event holds as before. -/
theorem goesOn_table {s t : State} (h : s.Table) {w w' : Work} (hw : s.renderer = .rendering w)
    (hw' : t.renderer = .rendering w') (hgo : w.GoesOn s w') (hj : t.jobs = s.jobs) (hp : t.placements = s.placements)
    (hring : t.ring = s.ring) (hcfg : t.headCfg = s.headCfg) : t.Table := by
  have hmem : w ∈ s.renderer.work := by rw [hw]; rfl
  have heq : ∀ v ∈ t.renderer.work, v = w' := fun v hv => by
    rw [hw'] at hv
    exact (Option.some.inj hv).symm
  have hbase : ({ s with renderer := .rendering w' } : State).Table := by
    refine ⟨h.config, ⟨h.mid.table, workLawful_of h.mid.work rfl fun v hv => ?_⟩, h.placements, fun i b hb => ?_,
      fun v hv => ?_, h.ordered, h.waits, fun v hv => ?_⟩
    · obtain rfl := Option.some.inj hv
      exact ⟨w, hmem, hgo.job, hgo.first, hgo.count, fun j hj => ⟨j, hj, .refl j⟩⟩
    · refine bandLawful_of (h.bands i b hb) rfl (fun j hj => ⟨j, hj, fun _ ha => ha, Nat.le_refl _, fun hn => ?_, fun hn => ?_⟩)
        (fun _ hf => hf) fun _ v hv _ _ => ?_
      · obtain ⟨-, -, k, hk, -, hc, -, -⟩ := h.bands i b hb
        obtain rfl := Option.some.inj (hj.symm.trans hk)
        exact (hc hn).2
      · obtain ⟨-, -, k, hk, -, -, -, hp⟩ := h.bands i b hb
        obtain rfl := Option.some.inj (hj.symm.trans hk)
        exact (hp hn).2
      · obtain rfl : w = v := Option.some.inj (Eq.trans (Eq.symm hmem) hv)
        exact ⟨w', rfl, hgo.band, hgo.job, hgo.first, hgo.count⟩
    · obtain rfl := Option.some.inj hv
      rw [hgo.band]
      exact h.working w hmem
    · obtain rfl := Option.some.inj hv
      obtain ⟨-, -, htodo⟩ := h.composed w hmem
      exact ⟨inRange_of hgo.inRange rfl fun _ _ _ hf => hf, hgo.inside, fun c hc => by
        rw [hgo.job]
        exact htodo c (hgo.todo c hc)⟩
  exact hbase.congr hj hp hring hw' hcfg

end Sys2Proof.Machine
end

section
/-! The completion of a band, and a change of a job's state or its commit row, keep the label's law in the middle of an event
(R8, R9, R68, R96). -/

namespace Sys2Proof.Machine

/-! ### The record of one job changed -/

/-- The front job after the record of one job has changed. -/
theorem isFront_update {t : JobTable} {tag : Byte} {f : Job → Job} (hf : ∀ j, t.holds j → j.tag = tag → (f j).tag = j.tag)
    (a : Byte) : (t.update tag f).isFront a = t.isFront a := by
  obtain ⟨front, back⟩ := t
  cases front with
  | none => rfl
  | some j =>
    simp only [JobTable.isFront, JobTable.update, Option.map_some, Job.updateIf]
    split
    · rename_i ht
      rw [hf j (.inl rfl) ht]
    · rfl

theorem updateIf_cases (tag : Byte) (f : Job → Job) (j : Job) :
    (j.tag = tag ∧ j.updateIf tag f = f j) ∨ (j.tag ≠ tag ∧ j.updateIf tag f = j) := by
  unfold Job.updateIf
  split
  · exact .inl ⟨by assumption, rfl⟩
  · exact .inr ⟨by assumption, rfl⟩

/-- The second record is of the same job, at the same row, and ABORTING as the first. -/
structure Job.Same (j k : Job) : Prop where
  tag : k.tag = j.tag
  done : k.done = j.done
  length : k.length = j.length
  isAborting : k.isAborting = j.isAborting

theorem Job.Same.refl (j : Job) : j.Same j := ⟨rfl, rfl, rfl, rfl⟩

theorem updateIf_same {tag : Byte} {f : Job → Job} {j : Job} (hf : j.tag = tag → j.Same (f j)) : j.Same (j.updateIf tag f) := by
  rcases updateIf_cases tag f j with ⟨ht, h⟩ | ⟨-, h⟩ <;> rw [h]
  · exact hf ht
  · exact .refl j

section
variable {s : State} {tag : Byte} {f : Job → Job} (hf : ∀ j, s.jobs.holds j → j.tag = tag → j.Same (f j))
include hf

/-- The job of a tag after the record of one job has changed. -/
theorem find_update_same {a : Byte} {j : Job} (hj : s.jobs.find a = some j) :
    (s.jobs.update tag f).find a = some (j.updateIf tag f) ∧ j.Same (j.updateIf tag f) := by
  refine ⟨?_, updateIf_same (hf j (holds_of_find hj))⟩
  rw [find_update fun j hj ht => (hf j hj ht).tag, hj]
  rfl

theorem placements_update (h : s.placementsLawful) {t : State} (hj : t.jobs = s.jobs.update tag f)
    (hp : t.placements.Sublist s.placements) : t.placementsLawful := by
  refine placementsLawful_of h (h.1.sublist hp) (fun p hp' => ⟨p, hp.subset hp', p.active, rfl⟩) fun p _ j hj' ha => ?_
  obtain ⟨hk, hsame⟩ := find_update_same hf hj'
  exact ⟨_, hj ▸ hk, hsame.isAborting.trans ha, hsame.length⟩

/-- A stray band stays stray. -/
theorem stray_update {t : State} (hj : t.jobs = s.jobs.update tag f) {b : Band} (hb : s.stray b) : t.stray b := by
  obtain ⟨hst, j, hj', hjt, ha⟩ := hb
  have hsame : j.Same (j.updateIf tag f) := updateIf_same (hf j (.inl hj'))
  refine ⟨hst, j.updateIf tag f, ?_, hsame.tag.trans hjt, hsame.isAborting.trans ha⟩
  rw [hj]
  exact Option.map_eq_some_iff.mpr ⟨j, hj', rfl⟩

/-- The bands keep their order. -/
theorem ordered_update {t : State} (h : s.ordered) (hj : t.jobs = s.jobs.update tag f) (hring : t.ring = s.ring) : t.ordered := by
  refine ordered_of h (by rw [hring]) (by rw [hring]) (fun i b hb => ?_) (fun a ha => ?_) fun i hi => ?_
  · rw [hring] at hb
    exact ⟨b, hb, rfl, rfl, rfl, stray_update hf hj⟩
  · rw [hj, isFront_update fun j hj ht => (hf j hj ht).tag]
    exact ha
  · rw [hring]
    exact hi

/-- A change of the record of one job that leaves its rows. -/
theorem update_table (h : s.Table) (hr : ∀ j, s.jobs.holds j → j.tag = tag → (f j).rendered = j.rendered)
    (hmid : (s.withJobs (s.jobs.update tag f)).JobsMid) : (s.withJobs (s.jobs.update tag f)).Table where
  config := h.config
  mid := hmid
  placements := placements_update hf h.placements rfl (List.Sublist.refl _)
  bands := fun i b hb => by
    obtain ⟨-, -, j', hj', -, hc, -, hp⟩ := h.bands i b hb
    refine bandLawful_of (h.bands i b hb) rfl (fun j hj => ?_) (fun _ ha => ?_) fun _ w hw _ _ => ⟨w, hw, rfl, rfl, rfl, rfl⟩
    · obtain rfl : j = j' := Option.some.inj (hj.symm.trans hj')
      obtain ⟨hk, hsame⟩ := find_update_same hf hj
      refine ⟨_, hk, fun _ ha => hsame.isAborting.trans ha, ?_, fun hn => hsame.done ▸ (hc hn).2, fun hn => hsame.done ▸ (hp hn).2⟩
      rcases updateIf_cases tag f j with ⟨ht, he⟩ | ⟨-, he⟩ <;> rw [he]
      rw [hr j (holds_of_find hj) ht]
    · rw [State.withJobs_jobs, isFront_update fun j hj ht => (hf j hj ht).tag]
      exact ha
  working := h.working
  ordered := ordered_update hf h.ordered rfl rfl
  waits := by
    have hrend : ∀ j, s.jobs.holds j → (j.updateIf tag f).rendered = j.rendered := fun j hj => by
      rcases updateIf_cases tag f j with ⟨ht, he⟩ | ⟨-, he⟩ <;> rw [he]
      exact hr j hj ht
    intro k hk hbegun j hj
    obtain ⟨k₀, hk₀, rfl⟩ := Option.map_eq_some_iff.mp hk
    obtain ⟨j₀, hj₀, rfl⟩ := Option.map_eq_some_iff.mp hj
    have hsame : j₀.Same (j₀.updateIf tag f) := updateIf_same (hf j₀ (.inl hj₀))
    have hsame' : k₀.Same (k₀.updateIf tag f) := updateIf_same (hf k₀ (.inr hk₀))
    rw [hsame.isAborting, hsame.length, hrend j₀ (.inl hj₀)]
    refine h.waits k₀ hk₀ ?_ j₀ hj₀
    rw [hasBegun_iff, hsame'.tag, hrend k₀ (.inr hk₀)] at hbegun
    exact (hasBegun_iff s k₀).mpr hbegun
  composed := composeLawful_of h.composed rfl (fun w hw => hw) fun _ _ _ _ _ hf _ _ => hf

end

/-! ### The completion of a band (R68, R96) -/

section
variable {s : State} {w : Work} (h : s.Table) (hw : w ∈ s.renderer.work)
include h hw

/-- The band in work: its record, its job, and how many rows it has. -/
theorem work_band : ∃ j, s.jobs.find w.job = some j ∧ j.tag = w.job ∧ w.first = j.rendered ∧ w.first + w.count ≤ j.length ∧
    j.isAborting = false ∧ 1 ≤ w.count ∧ w.count ≤ s.ring.h := by
  obtain ⟨h1, h2, j, hj, -⟩ := h.bands _ _ (h.work_record hw)
  have ht := find_tag hj
  obtain ⟨hf, hle, ha⟩ := work_job h.mid hw (holds_of_find hj) ht
  exact ⟨j, hj, ht, hf, hle, ha, h1, h2⟩

/-- A band other than the one in work is composed (R64). -/
theorem composed_of_other {i : Nat} {b : Band} (hb : s.ring.bandAt i = some b) (hi : i ≠ w.band) : b.state ≠ .rendering := by
  intro hst
  obtain ⟨-, -, j, -, hr, -⟩ := h.bands i b hb
  obtain ⟨-, v, hv, hvi, -⟩ := hr hst
  obtain rfl : w = v := Option.some.inj (Eq.trans (Eq.symm hw) hv)
  exact hi hvi.symm

/-- A completed band whose rows are all consumed was the oldest of the run (R66, R68). -/
theorem oldest_of_consumed (hfree : completedBand w s.jobs = none) :
    ∀ d < s.ring.n, ∀ e < d, s.ring.back e = w.band → s.ring.bandAt (s.ring.back d) = none := by
  obtain ⟨j, hj, hjt, hf, hle, ha, hpos, -⟩ := work_band h hw
  have hdone : w.first + w.count ≤ j.done := by
    unfold completedBand at hfree
    rw [hj] at hfree
    by_contra hn
    simp [hn] at hfree
  intro d hd e he heq
  cases hc : s.ring.bandAt (s.ring.back d) with
  | none => rfl
  | some c =>
    exfalso
    have hne : s.ring.back d ≠ w.band := fun heq' => by
      have := back_inj h.claim_lt hd (he.trans hd) (heq'.trans heq.symm)
      omega
    obtain ⟨hsame, hother⟩ := (h.ordered d hd e he c hc).2 _ (heq ▸ h.work_record hw)
    obtain ⟨-, -, k, hk, -, hcomp, -⟩ := h.bands _ c hc
    by_cases hcj : c.job = w.job
    · rw [hcj, hj] at hk
      obtain rfl := Option.some.inj hk
      have := hsame hcj
      have := (hcomp (composed_of_other h hw hc hne)).2
      dsimp only at *
      omega
    · obtain ⟨i, hi, hic⟩ := isFront_iff.mp (hother hcj)
      rcases holds_of_find hj with hfront | hback
      · obtain rfl := Option.some.inj (hi.symm.trans hfront)
        exact hcj (hic.symm.trans hjt)
      · have := (h.mid.table.back j hback).2.2.1
        omega

/-- The bands after the completion of the band in work (R68). -/
theorem bandCompleted_bandAt (i : Nat) :
    (bandCompleted w s).ring.bandAt i = if i = w.band then completedBand w s.jobs else s.ring.bandAt i := by
  have hlt := lt_of_bandAt (h.work_record hw)
  have hset := bandAt_setBand s w.band i (completedBand w s.jobs)
  simp only [hlt, and_true] at hset
  exact hset

/-- A completed band is READY, with rows of its job still to consume, or FREE (R68). -/
theorem completedBand_some {b : Band} (hb : completedBand w s.jobs = some b) :
    b = ⟨.ready, w.job, w.first, w.count⟩ ∧ ∀ j, s.jobs.find w.job = some j → j.done < w.first + w.count := by
  obtain ⟨j, hj, -⟩ := work_band h hw
  unfold completedBand at hb
  rw [hj] at hb
  dsimp only at hb
  split at hb
  · cases hb
  · rename_i hn
    refine ⟨(Option.some.inj hb).symm, fun k hk => ?_⟩
    obtain rfl := Option.some.inj (hj.symm.trans hk)
    exact Nat.not_le.mp hn

omit h hw in
theorem renderedTo_same (row : Nat) (j : Job) : j.Same (j.renderedTo row) := ⟨rfl, rfl, rfl, rfl⟩

theorem bandCompleted_bands : (bandCompleted w s).bandsLawful := by
  obtain ⟨j, hj, hjt, hf, hle, ha, hpos, hh⟩ := work_band h hw
  have hsame : ∀ i, s.jobs.holds i → i.tag = w.job → i.Same (i.renderedTo (w.first + w.count)) :=
    fun i _ _ => renderedTo_same _ i
  intro i b hb
  rw [bandCompleted_bandAt h hw] at hb
  split at hb
  · obtain ⟨rfl, hdone⟩ := completedBand_some h hw hb
    obtain ⟨hk, -⟩ := find_update_same hsame hj
    have hup : j.updateIf w.job (Job.renderedTo (w.first + w.count)) = j.renderedTo (w.first + w.count) := by
      simp [Job.updateIf, hjt]
    rw [hup] at hk
    exact ⟨hpos, hh, _, hk, fun hn => (by cases hn), fun _ => ⟨Nat.le_refl _, hdone j hj⟩, fun _ => ha, fun hn => (by cases hn)⟩
  · rename_i hi
    have hst := composed_of_other h hw hb hi
    obtain ⟨-, -, k', hk', -, hc, -, hp⟩ := h.bands i b hb
    refine bandLawful_of (h.bands i b hb) rfl (fun k hk => ?_) (fun _ hfr => ?_) fun hn => absurd hn hst
    · obtain rfl : k = k' := Option.some.inj (hk.symm.trans hk')
      obtain ⟨hk₁, hs⟩ := find_update_same hsame hk
      refine ⟨_, hk₁, fun _ ha => hs.isAborting.trans ha, ?_, fun hn => hs.done ▸ (hc hn).2, fun hn => hs.done ▸ (hp hn).2⟩
      rcases updateIf_cases w.job (Job.renderedTo (w.first + w.count)) k with ⟨ht, he⟩ | ⟨-, he⟩ <;> rw [he]
      have hkr := (work_job h.mid hw (holds_of_find hk) ht).1
      exact hkr ▸ Nat.le_add_right _ _
    · exact (isFront_update (fun i hi ht => (hsame i hi ht).tag) _).trans hfr

theorem bandCompleted_ordered : (bandCompleted w s).ordered := by
  have hsame : ∀ i, s.jobs.holds i → i.tag = w.job → i.Same (i.renderedTo (w.first + w.count)) :=
    fun i _ _ => renderedTo_same _ i
  cases hb : completedBand w s.jobs with
  | none =>
    have hring : (bandCompleted w s).ring = (s.setBand w.band none).ring := by simp [bandCompleted, hb]
    exact ordered_update (s := s.setBand w.band none) hsame (ordered_free h.ordered (oldest_of_consumed h hw hb)) rfl hring
  | some c =>
    obtain ⟨rfl, -⟩ := completedBand_some h hw hb
    refine ordered_of h.ordered rfl rfl (fun i b hbi => ?_) (fun a ha => ?_) fun i hi => ?_
    · rw [bandCompleted_bandAt h hw, hb] at hbi
      split at hbi
      · rename_i hi
        obtain rfl := Option.some.inj hbi
        subst hi
        exact ⟨_, h.work_record hw, rfl, rfl, rfl, fun hs => (by cases hs.1)⟩
      · exact ⟨b, hbi, rfl, rfl, rfl, stray_update hsame rfl⟩
    · exact (isFront_update (fun i hi ht => (hsame i hi ht).tag) _).trans ha
    · rw [bandCompleted_bandAt h hw, hb]
      split
      · rfl
      · exact hi

/-- The back job has begun only where it had, or it is the job of the band in work (R79). -/
theorem bandCompleted_waits : (bandCompleted w s).backWaits := by
  obtain ⟨i, hi, hit, hf, hle, ha, hpos, -⟩ := work_band h hw
  intro k hk hbegun j hj
  obtain ⟨k₀, hk₀, rfl⟩ := Option.map_eq_some_iff.mp hk
  obtain ⟨j₀, hj₀, rfl⟩ := Option.map_eq_some_iff.mp hj
  have hbegun₀ : s.hasBegun k₀ := by
    rw [hasBegun_iff] at hbegun ⊢
    rcases updateIf_cases w.job (Job.renderedTo (w.first + w.count)) k₀ with ⟨ht, -⟩ | ⟨ht, he⟩
    · exact .inr ⟨w.band, _, h.work_record hw, ht.symm⟩
    · rw [he] at hbegun
      refine hbegun.imp_right ?_
      rintro ⟨l, b, hb, hbt⟩
      rw [bandCompleted_bandAt h hw] at hb
      split at hb
      · obtain ⟨rfl, -⟩ := completedBand_some h hw hb
        exact absurd hbt.symm ht
      · exact ⟨l, b, hb, hbt⟩
  have hwait := h.waits k₀ hk₀ hbegun₀ j₀ hj₀
  rcases updateIf_cases w.job (Job.renderedTo (w.first + w.count)) j₀ with ⟨ht, -⟩ | ⟨-, he⟩
  · obtain ⟨hfj, hlj, haj⟩ := work_job h.mid hw (.inl hj₀) ht
    exfalso
    rcases hwait with hwait | hwait
    · rw [haj] at hwait
      cases hwait
    · omega
  · rw [he]
    exact hwait

/-- The completion of a band, before the renderer looks (R96). -/
theorem bandCompleted_table : (bandCompleted w s).Table where
  config := by
    obtain ⟨hcfg, hbase, hh, hn2, hn8, hzone, hbands, hclaim⟩ := h.config
    exact ⟨hcfg, hbase, hh, hn2, hn8, hzone, List.length_set.trans hbands, hclaim⟩
  mid := bandCompleted_mid h.mid hw
  placements := placements_update (fun i _ _ => renderedTo_same (w.first + w.count) i) h.placements rfl List.filter_sublist
  bands := bandCompleted_bands h hw
  working := fun v hv => (by cases hv)
  ordered := bandCompleted_ordered h hw
  waits := bandCompleted_waits h hw
  composed := fun v hv => (by cases hv)

end

end Sys2Proof.Machine
end

section
/-! What the head channel looks at, and the operations that keep it: looks, job records, the renderer's events, the arbiter. -/

namespace Sys2Proof.Machine

/-! ### The whole law, by its parts -/

theorem label_of_labelLawful {s : State} (h : s.labelLawful) : s.Label := ⟨⟨table_of_labelLawful h, h.looked, h.history⟩, h.head⟩

/-- The law holds of a state with the label, the job table, the command port, the glyph store and the copy lawful. -/
theorem labelLawful_of {s : State} (hl : s.Label) (hj : s.jobsLawful) (hp : s.portLawful) (hg : s.glyphsLawful)
    (hpr : s.proofLawful) : s.labelLawful :=
  ⟨hl.table.config, hp, hg, hj, hl.table.placements, hl.table.ringLawful, hl.table.runLawful, hl.head, hl.history, hl.looked,
    hl.table.composed, hpr⟩

/-! ### What the head channel looks at (R103, R107) -/

/-- The head channel and the line in flight stand as before. -/
structure State.FlightKept (s t : State) : Prop where
  mode : t.head.mode = s.head.mode
  headCfg : t.headCfg = s.headCfg
  base : t.ring.base = s.ring.base
  h : t.ring.h = s.ring.h
  front : ∀ j ∈ s.jobs.front, ∃ k ∈ t.jobs.front, j.Same k
  printing : ∀ i b, s.ring.bandAt i = some b → b.state = .printing → t.ring.bandAt i = some b
  access : s.accessFrom t

theorem State.FlightKept.trans {s t u : State} (h : s.FlightKept t) (k : t.FlightKept u) : s.FlightKept u where
  mode := k.mode.trans h.mode
  headCfg := k.headCfg.trans h.headCfg
  base := k.base.trans h.base
  h := k.h.trans h.h
  front := fun j hj => by
    obtain ⟨i, hi, hji⟩ := h.front j hj
    obtain ⟨l, hl, hil⟩ := k.front i hi
    exact ⟨l, hl, hil.tag.trans hji.tag, hil.done.trans hji.done, hil.length.trans hji.length,
      hil.isAborting.trans hji.isAborting⟩
  printing := fun i b hb hp => k.printing i b (h.printing i b hb hp) hp
  access := h.access.trans k.access

/-- Jobs, bands and the head's configuration, state and access as before. -/
theorem flightKept_of_eq {s t : State} (hm : t.head.mode = s.head.mode) (hcfg : t.headCfg = s.headCfg)
    (hring : t.ring = s.ring) (hj : t.jobs.front = s.jobs.front) (ha : s.accessFrom t) : s.FlightKept t :=
  ⟨hm, hcfg, by rw [hring], by rw [hring], fun j hj' => ⟨j, hj ▸ hj', .refl j⟩, fun _ _ hb _ => hring ▸ hb, ha⟩

theorem look_flightKept (s : State) : s.FlightKept (look s) :=
  ⟨by simp, by simp, look_base s, look_h s, fun j hj => ⟨j, by simpa using hj, .refl j⟩, fun _ _ hb _ => look_bandAt hb,
    accessFrom_of_eq (look_arbiter s)⟩

/-- The head channel is lawful where it and its line stand as before, and a settle would leave it where it was. -/
theorem State.FlightKept.headLawful {s t : State} (hk : s.FlightKept t) (h : s.headLawful)
    (hs : t.head.mode.flight = none → t.settledMode = s.settledMode) : t.headLawful := by
  obtain ⟨h1, h2, h3⟩ := h
  have hfetch : fetchRequest t = fetchRequest s := by
    unfold fetchRequest
    rw [hk.mode, hk.headCfg]
  refine ⟨fun hn => ?_, fun x hx => ?_, fun a hm hl hc => ?_⟩
  · rw [hs hn, hk.mode]
    exact h1 (hk.mode ▸ hn)
  · rw [hk.mode] at hx
    obtain ⟨⟨j, hj, htag, hrow, hlen, hend⟩, ⟨b, hb, hst, haddr⟩, hbytes, hgo⟩ := h2 x hx
    obtain ⟨k, hk', hjk⟩ := hk.front j hj
    refine ⟨⟨k, hk', htag.trans hjk.tag.symm, hrow.trans hjk.done.symm, hjk.length ▸ hlen,
      fun he => hjk.isAborting.trans (hend he)⟩, ⟨b, hk.printing _ b hb hst, hst, ?_⟩, hk.headCfg ▸ hbytes, hgo⟩
    unfold State.lineAddr State.bandAddr at haddr ⊢
    rw [hk.headCfg, hk.base, hk.h]
    exact haddr
  · rw [hfetch]
    exact h3 a (hk.access a hm hl) hl hc

/-- A row is ready as before where the composed bands of its job are the same. -/
theorem rowReady_of {s t : State} {j k : Job} (hjk : j.Same k)
    (hband : ∀ i b, b.job = j.tag → b.state ≠ .rendering → (t.ring.bandAt i = some b ↔ s.ring.bandAt i = some b)) :
    t.rowReady k ↔ s.rowReady j := by
  have hne : ∀ b : Band, b.state = .ready ∨ b.state = .printing → b.state ≠ .rendering := by
    rintro b (hb | hb) <;> simp [hb]
  unfold State.rowReady
  rw [hjk.tag, hjk.done, hjk.length]
  refine or_congr Iff.rfl ⟨?_, ?_⟩
  · rintro ⟨i, b, hb, hbj, hst, hrest⟩
    exact ⟨i, b, (hband i b hbj (hne b hst)).mp hb, hbj, hst, hrest⟩
  · rintro ⟨i, b, hb, hbj, hst, hrest⟩
    exact ⟨i, b, (hband i b hbj (hne b hst)).mpr hb, hbj, hst, hrest⟩

/-- A look leaves the settled state: the band it claims is RENDERING (R103). -/
theorem look_settledMode (s : State) : (look s).settledMode = s.settledMode := by
  refine settledMode_of (fun hn => by simpa using hn) fun j hj => ⟨j, by simpa using hj, rowReady_of (.refl j) fun i b _ hst => ?_⟩
  refine ⟨fun hb => ?_, look_bandAt⟩
  rcases bandAt_of_look hb with hb | ⟨k, -, -, rfl⟩
  · exact hb
  · exact absurd rfl hst

/-- A look ends an event that has left the head channel lawful. -/
theorem look_label {s : State} (ht : s.Table) (hh : s.historyLawful) (hd : s.headLawful) : (look s).Label where
  table := look_table ht
  looked := look_lookSettled s
  history := by
    unfold State.historyLawful at *
    rwa [look_head, look_headCfg]
  head := (look_flightKept s).headLawful hd fun _ => look_settledMode s

/-! ### Job records (R7, R8, R9) -/

theorem Job.Commits.same {j k : Job} (h : j.Commits k) : j.Same k := ⟨h.tag, h.done, h.length, h.isAborting⟩

/-- A job of a tag changes in its state or its commit row, and the renderer looks. -/
theorem look_update_label {s : State} (hj : s.jobsLawful) (h : s.Label) {tag : Byte} {f : Job → Job}
    (hf : ∀ j, s.jobs.holds j → j.tag = tag → j.Commits (f j)) : (look (s.withJobs (s.jobs.update tag f))).Label := by
  have hsame : ∀ j, s.jobs.holds j → j.tag = tag → j.Same (f j) := fun j hh ht => (hf j hh ht).same
  have hfront : ∀ j, s.jobs.front = some j → (s.jobs.update tag f).front = some (j.updateIf tag f) ∧ j.Same (j.updateIf tag f) :=
    fun j hj' => ⟨Option.map_eq_some_iff.mpr ⟨j, hj', rfl⟩, updateIf_same (hsame j (.inl hj'))⟩
  refine look_label (update_table hsame h.table (fun j hh ht => (hf j hh ht).rendered) (update_mid hj hf)) h.history ?_
  refine State.FlightKept.headLawful (s := s) ⟨rfl, rfl, rfl, rfl, fun j hj' => ⟨_, hfront j hj'⟩, fun _ _ hb _ => hb,
    accessFrom_of_eq rfl⟩ h.head fun _ => ?_
  refine settledMode_of (fun hn => ?_) fun j hj' => ⟨_, (hfront j hj').1, rowReady_of (hfront j hj').2 fun _ _ _ _ => Iff.rfl⟩
  simp [JobTable.update, hn]

/-- A job opened at the back has no band, no placement and no row (R7). -/
theorem openBack_table {s : State} (hj : s.jobsLawful) (h : s.Table) {ps : List Byte} {p : OpenParams}
    (hc : openJobCheck ps s = .ok p) {j : Job} (hf : s.jobs.front = some j) :
    (s.withJobs ⟨some j, some p.job⟩).Table := by
  obtain ⟨hback, hfree, -⟩ := openJobCheck_ok hc
  have hfind : ∀ a k, s.jobs.find a = some k → (JobTable.mk (some j) (some p.job)).find a = some k := by
    intro a k hk
    obtain ⟨rfl, rfl⟩ := find_of_alone hf hback hk
    exact find_front rfl
  have hfront : ∀ a, s.jobs.isFront a = true → (JobTable.mk (some j) (some p.job)).isFront a = true := by
    intro a ha
    obtain ⟨k, hk, hka⟩ := isFront_iff.mp ha
    exact isFront_iff.mpr ⟨k, hf.symm.trans hk, hka⟩
  refine ⟨h.config, openBack_mid hj hc hf, ?_, fun i b hb => ?_, h.working, ?_, fun k hk hbegun => ?_,
    composeLawful_of h.composed rfl (fun w hw => hw) fun _ _ _ _ _ hf _ _ => hf⟩
  · exact placementsLawful_of h.placements h.placements.1 (fun q hq => ⟨q, hq, q.active, rfl⟩) fun q _ k hk ha =>
      ⟨k, hfind _ k hk, ha, rfl⟩
  · obtain ⟨h1, h2, k, hk, hrest⟩ := h.bands i b hb
    refine ⟨h1, h2, k, hfind _ k hk, hrest.1, hrest.2.1, hrest.2.2.1, fun hst => ?_⟩
    obtain ⟨hfr, hle⟩ := hrest.2.2.2 hst
    exact ⟨hfront _ hfr, hle⟩
  · refine ordered_of h.ordered rfl rfl (fun i b hb => ⟨b, hb, rfl, rfl, rfl, ?_⟩) hfront fun _ hi => hi
    rintro ⟨hst, k, hk, hkt, ha⟩
    exact ⟨hst, k, hf.symm.trans hk, hkt, ha⟩
  · exfalso
    obtain rfl := Option.some.inj hk
    rcases (hasBegun_iff _ _).mp hbegun with hr | ⟨l, b, hb, hbt⟩
    · exact Nat.not_lt_zero _ hr
    · obtain ⟨k, hk, -, hkt⟩ := h.band_job hb
      obtain ⟨rfl, -⟩ := find_of_alone hf hback hk
      exact (hfree k hf).2 (hkt.trans hbt)

theorem openBack_label {s : State} (hj : s.jobsLawful) (h : s.Label) {ps : List Byte} {p : OpenParams}
    (hc : openJobCheck ps s = .ok p) {j : Job} (hf : s.jobs.front = some j) :
    (look (s.withJobs ⟨some j, some p.job⟩)).Label := by
  refine look_label (openBack_table hj h.table hc hf) h.history ?_
  have hfront : (s.withJobs ⟨some j, some p.job⟩).jobs.front = s.jobs.front := hf.symm
  refine (flightKept_of_eq (s := s) (t := s.withJobs ⟨some j, some p.job⟩) rfl rfl rfl hfront (accessFrom_of_eq rfl)).headLawful h.head
    fun _ => ?_
  exact settledMode_of (fun hn => hfront.trans hn) fun k hk => ⟨k, hfront.trans hk, rowReady_of (.refl k) fun _ _ _ _ => Iff.rfl⟩

/-! ### ABORT_JOB of the back job (R21) -/

theorem abortBack_label {s : State} (h : s.Label) {k : Job} (hk : s.jobs.back = some k) : (abortBack k s).Label := by
  have hmid := h.table.mid.table
  obtain ⟨hjobs, hhead⟩ := abortBack_spec k s
  have hcfg := (abortBack_labelOnly k s).headCfg
  have hf := ((freeJob_freed k.tag false s).post (reportJobAborted k .host)).withJobs s.jobs ⟨s.jobs.front, none⟩
  have hu : abortBack k s = look ((post (reportJobAborted k .host) (freeJob k.tag false s)).withJobs ⟨s.jobs.front, none⟩) := by
    simp [abortBack, State.withJobs]
  have hfront : (abortBack k s).jobs.front = s.jobs.front := by rw [hjobs]
  have hband : ∀ j ∈ s.jobs.front, ∀ i b, b.job = j.tag → b.state ≠ .rendering →
      ((abortBack k s).ring.bandAt i = some b ↔ s.ring.bandAt i = some b) := by
    intro j hj i b hbj hst
    have hne : b.job ≠ k.tag := hbj ▸ (hmid.apart j hj k hk).1
    rw [hu]
    refine ⟨fun hb => ?_, fun hb => look_bandAt ((hf.bandAt i b).mpr ⟨hb, .inl hne⟩)⟩
    rcases bandAt_of_look hb with hb | ⟨l, -, -, rfl⟩
    · exact ((hf.bandAt i b).mp hb).1
    · exact absurd rfl hst
  refine ⟨⟨abortBack_table h.table hk, look_lookSettled _, ?_⟩, ?_⟩
  · have := h.history
    unfold State.historyLawful at *
    rwa [hhead, hcfg]
  · refine State.FlightKept.headLawful (s := s) ⟨by rw [hhead], hcfg, ?_, ?_, fun j hj => ⟨j, hfront ▸ hj, .refl j⟩,
      fun i b hb hst => ?_, abortBack_accessFrom k s⟩ h.head fun _ => ?_
    · rw [hu, look_base]
      exact hf.base
    · rw [hu, look_h]
      exact hf.h
    · obtain ⟨-, -, _, -, -, -, -, hp⟩ := h.table.bands i b hb
      obtain ⟨j, hj, hjb⟩ := isFront_iff.mp (hp hst).1
      exact (hband j hj i b hjb.symm (by simp [hst])).mpr hb
    · exact settledMode_of (fun hn => hfront.trans hn) fun j hj => ⟨j, hfront.trans hj, rowReady_of (.refl j) (hband j hj)⟩

/-! ### The renderer's events (R90, R96) -/

/-- The renderer goes on in its band. -/
theorem goesOn_label {s t : State} (h : s.Label) {w w' : Work} (hw : s.renderer = .rendering w)
    (hw' : t.renderer = .rendering w') (hgo : w.GoesOn s w') (hj : t.jobs = s.jobs) (hp : t.placements = s.placements)
    (hring : t.ring = s.ring) (hcfg : t.headCfg = s.headCfg) (hhead : t.head = s.head) (ha : s.accessFrom t) : t.Label where
  table := goesOn_table h.table hw hw' hgo hj hp hring hcfg
  looked := lookSettled_of_work (by rw [hw']; simp [Renderer.work])
  history := by
    have := h.history
    unfold State.historyLawful at *
    rwa [hhead, hcfg]
  head := by
    refine (flightKept_of_eq (by rw [hhead]) hcfg hring (by rw [hj]) ha).headLawful h.head fun _ => ?_
    exact settledMode_of (fun hn => by rw [hj]; exact hn) fun j hj' => ⟨j, by rw [hj]; exact hj', rowReady_of (.refl j) fun _ _ _ _ =>
      by rw [hring]⟩

theorem takeReading_label {s : State} (h : s.Label) (hg : s.glyphsLawful) : (takeReading s).Label := by
  cases hr : s.renderer with
  | rendering w =>
    obtain ⟨hin, hinside, -⟩ := h.table.composed w (by rw [hr]; rfl)
    simp only [takeReading, hr]
    exact goesOn_label h hr rfl (read_goesOn hg hin hinside) rfl rfl rfl rfl rfl (accessFrom_of_eq rfl)
  | _ =>
    simp only [takeReading, hr]
    exact h

/-- The band in work is completed as one event (R96). -/
theorem bandDone_label {s : State} (hj : s.jobsLawful) (h : s.Label) {w : Work} (hw : w ∈ s.renderer.work) :
    (bandDone w s).Label := by
  obtain ⟨h1, h2, h3, h4, h5, h6⟩ := postAll_label (retiredReports w s.placements) (bandCompleted w s)
  have hcfg : (postAll (retiredReports w s.placements) (bandCompleted w s)).headCfg = s.headCfg :=
    (postAll_labelOnly _ (bandCompleted w s)).headCfg
  generalize hu : postAll (retiredReports w s.placements) (bandCompleted w s) = u at h1 h2 h3 h4 h5 h6 hcfg
  have hdone : bandDone w s = settle (look u) := by rw [bandDone_completed, hu]
  have ht : u.Table := (bandCompleted_table h.table hw).congr h1 h2 h3 h4 hcfg
  have hhist : u.historyLawful := by
    have := h.history
    unfold State.historyLawful at *
    rw [h5, hcfg]
    exact this
  have hhead : u.head = s.head := h5
  rw [hdone]
  cases hl : s.head.lineInFlight with
  | false =>
    have hb := between_of_label h hj hl
    have hstand : (look u).jobs.Standing := by
      rw [look_jobs, h1]
      intro k hk
      obtain ⟨j, hj', rfl⟩ := Option.map_eq_some_iff.mp hk
      obtain ⟨ha, hd⟩ := hb.standing j hj'
      unfold Job.updateIf
      split <;> exact ⟨ha, hd⟩
    refine settle_label ⟨⟨look_table ht, look_lookSettled u, ?_⟩, hstand, ?_⟩ (by rw [look_head, hhead]; exact hl)
    · unfold State.historyLawful at *
      rwa [look_head, look_headCfg]
    · exact hb.quiet.of (accessFrom_of_eq ((look_arbiter u).trans h6))
  | true =>
    rw [settle_lineInFlight (by rw [look_head, hhead]; exact hl)]
    refine look_label ht hhist (State.FlightKept.headLawful (s := s) ⟨by rw [hhead], hcfg, by rw [h3]; rfl, by rw [h3]; rfl,
      fun j hj' => ⟨j.updateIf w.job (Job.renderedTo (w.first + w.count)), ?_, updateIf_same fun _ => renderedTo_same _ j⟩,
      fun i b hb hst => ?_, accessFrom_of_eq h6⟩ h.head fun hn => ?_)
    · rw [h1]
      exact Option.map_eq_some_iff.mpr ⟨j, hj', rfl⟩
    · rw [h3, bandCompleted_bandAt h.table hw, if_neg]
      · exact hb
      · rintro rfl
        rw [h.table.work_record hw] at hb
        obtain rfl := Option.some.inj hb
        cases hst
    · rw [hhead, flight_none_iff, hl] at hn
      cases hn

theorem finishBand_label {s : State} (hj : s.jobsLawful) (h : s.Label) : (finishBand s).Label := by
  cases hr : s.renderer with
  | rendering w =>
    rw [finishBand_eq hr]
    have h' : ({ s with mem := composeRest s w } : State).Label := h.congr rfl rfl rfl rfl rfl rfl rfl rfl (accessFrom_of_eq rfl)
    have hj' : ({ s with mem := composeRest s w } : State).jobsLawful := jobsLawful_congr hj rfl rfl rfl id
    exact bandDone_label hj' h' (show w ∈ s.renderer.work by rw [hr]; rfl)
  | _ =>
    simp only [finishBand, hr]
    exact h

/-! ### The arbiter (R128, R129) -/

/-- A grant is given to a client that asks. -/
theorem grant_label {s : State} (h : s.Label) : (grant s).Label := by
  rcases grant_cases s with he | ⟨c, r, -, hc, he⟩ <;> rw [he]
  · exact h
  · refine ⟨h.toMidLine.congr rfl rfl rfl rfl rfl rfl rfl, h.head.1, h.head.2.1, fun a ha _ hclient => ?_⟩
    obtain rfl := Option.some.inj ha
    obtain rfl : c = .fetch := hclient
    exact Option.isSome_iff_exists.mpr ⟨r, choice_requestOf hc⟩

theorem regrant_label {s : State} (h : s.Label) : (regrant s).Label := by
  unfold regrant
  split
  · exact h
  · exact grant_label h

end Sys2Proof.Machine
end

section
/-! The whole law after an access performed, the ends it brings about, and either reset (R74, R108, R128, R132, R133). -/

namespace Sys2Proof.Machine

/-! ### The command port and the glyph store -/

theorem LabelOnly.portLawful {s t : State} (h : LabelOnly s t) : s.portLawful → t.portLawful :=
  portLawful_sticky (f := t.port.sticky) h.phase (by rw [← h.port])

/-- A change of the label keeps the whole law where it keeps the label's part of it. -/
theorem labelLawful_of_labelOnly {s t : State} (h : s.labelLawful) (hl : LabelOnly s t) (ht : t.Label) (hj : t.jobsLawful) :
    t.labelLawful := by
  refine labelLawful_of ht hj (hl.portLawful h.port) ?_ ?_
  · have := h.glyphs
    unfold State.glyphsLawful at *
    rwa [hl.glyphs]
  · have := h.proof
    unfold State.proofLawful at *
    rwa [hl.proof, hl.headCfg]

theorem SameLabel.labelLawful {s t : State} (hs : SameLabel s t) (h : s.labelLawful) : t.labelLawful := by
  refine labelLawful_of ?_ (hs.jobsLawful h.jobs) (hs.port h.port) ?_ ?_
  · refine (label_of_labelLawful h).congr hs.jobs hs.placements hs.ring hs.renderer hs.headCfg hs.proof (by rw [hs.head])
      (by rw [hs.head]) fun a ha _ => ?_
    rw [hs.inProgress] at ha
    exact ha
  · have := h.glyphs
    unfold State.glyphsLawful at *
    rwa [hs.glyphs]
  · have := h.proof
    unfold State.proofLawful at *
    rwa [hs.proof, hs.headCfg]

/-! ### The access performed (R128) -/

section
variable {s : State} (h : s.labelLawful)
include h

/-- The byte of an access has landed. -/
theorem landing_labelLawful (m : Memory) : (s.landing m).labelLawful := by
  have hl : (s.landing m).Label :=
    (label_of_labelLawful h).congr rfl rfl rfl rfl rfl rfl rfl rfl fun a ha _ => (by cases ha)
  exact labelLawful_of hl (jobsLawful_congr h.jobs rfl rfl rfl id) h.port h.glyphs h.proof

/-- A byte of the line has been fetched (R108). -/
theorem fetched_label {line : Line} (hm : s.head.mode = .inFlight .fetch line) (hlt : line.bytes.length < s.headCfg.dots / 8)
    (hq : s.arbiter.inProgress = none) (v : Byte) :
    (s.withMode (.inFlight .fetch { line with bytes := line.bytes ++ [v] })).Label := by
  have hs := label_of_labelLawful h
  obtain ⟨hjob, hband, -, hend⟩ := hs.head.2.1 (.fetch, line) (by rw [hm]; rfl)
  refine ⟨hs.toMidLine.congr rfl rfl rfl rfl rfl rfl rfl, fun hn => (by cases hn), fun x hx => ?_, fun a ha _ _ => ?_⟩
  · obtain rfl := Option.some.inj hx
    refine ⟨hjob, hband, ?_, hend⟩
    rw [if_pos rfl]
    show (line.bytes ++ [v]).length ≤ s.headCfg.dots / 8
    rw [List.length_append, List.length_singleton]
    exact hlt
  · have hn : (s.withMode (.inFlight .fetch { line with bytes := line.bytes ++ [v] })).arbiter.inProgress = none := hq
    rw [hn] at ha
    cases ha

/-- A byte of a PROOF copy has been read (R74). -/
theorem copied_labelLawful {c : ProofCopy} (hc : s.port.proof = some c) (v : Byte) :
    ({ s with port := { s.port with proof := some { c with copied := c.copied ++ [v] } } } : State).labelLawful := by
  have hs := label_of_labelLawful h
  have hready : s.phase = .ready := by
    by_contra hn
    obtain ⟨-, hnone⟩ := h.port.2.2.2 hn
    rw [hnone] at hc
    cases hc
  refine labelLawful_of ⟨⟨hs.table.congr rfl rfl rfl rfl rfl, ?_, hs.history⟩, ?_⟩ (jobsLawful_congr h.jobs rfl rfl rfl id)
    ⟨h.port.1, h.port.2.1, fun _ => ?_, fun hn => absurd hready hn⟩ h.glyphs fun c' hc' => ?_
  · refine lookSettled_of hs.looked rfl rfl id (fun j hj => ⟨j, hj, rfl, rfl, rfl, rfl, rfl⟩) fun hcl => ?_
    have hproof : s.port.proof.map ProofCopy.band = some c.band := by rw [hc]; rfl
    unfold State.claimable at hcl ⊢
    rw [hproof]
    exact hcl
  · refine (flightKept_of_eq (s := s) rfl rfl rfl rfl (accessFrom_of_eq rfl)).headLawful hs.head fun _ => ?_
    exact settledMode_of id fun j hj => ⟨j, hj, rowReady_of (.refl j) fun _ _ _ _ => Iff.rfl⟩
  · have := h.port.2.2.1 hready
    rw [hc] at this
    exact this
  · obtain rfl := Option.some.inj hc'
    exact h.proof c hc

/-- An access performed keeps the law. -/
theorem perform_labelLawful : (perform s).labelLawful := by
  have hjobs := perform_lawful h.jobs
  rcases perform_moved s with ⟨-, he⟩ | ⟨a, m, v, ha, hmoved, hlive⟩
  · rwa [he]
  have hland := landing_labelLawful h m
  have hlabel := label_of_labelLawful hland
  rcases hlive with hlive | he
  swap
  · rwa [he]
  generalize perform s = t at hmoved hjobs
  cases hmoved with
  | nothing => exact hland
  | fetch line hm hc =>
    have hreq := (label_of_labelLawful h).head.2.2 a ha hlive hc
    have hm' : s.head.mode = .inFlight .fetch line := hm
    have hlt : line.bytes.length < s.headCfg.dots / 8 := by
      unfold fetchRequest at hreq
      rw [hm'] at hreq
      by_contra hn
      have hn' : ¬ line.bytes.length < s.headCfg.lineBytes := hn
      simp [hn'] at hreq
    exact labelLawful_of (fetched_label hland hm hlt rfl v) hjobs hland.port hland.glyphs hland.proof
  | renderer w hw =>
    obtain ⟨hin, hinside, -⟩ := hlabel.table.composed w (by rw [hw]; rfl)
    exact labelLawful_of (goesOn_label hlabel hw rfl (advance_goesOn hin hinside v) rfl rfl rfl rfl rfl (accessFrom_of_eq rfl))
      hjobs hland.port hland.glyphs hland.proof
  | upload up rep f =>
    exact labelLawful_of (hlabel.congr rfl rfl rfl rfl rfl rfl rfl rfl (accessFrom_of_eq rfl)) hjobs
      (portLawful_sticky rfl rfl hland.port) hland.glyphs hland.proof
  | clear b hb =>
    refine labelLawful_of (hlabel.congr rfl rfl rfl rfl rfl rfl rfl rfl (accessFrom_of_eq rfl)) hjobs ?_ hland.glyphs hland.proof
    obtain ⟨h1, h2, -, h4⟩ := hland.port
    exact ⟨h1, h2, fun hr => (by cases hr), fun _ => h4 (by rw [hb]; simp)⟩
  | copy p hp => exact copied_labelLawful hland hp v

/-- A reading taken keeps the law. -/
theorem takeReading_labelLawful : (takeReading s).labelLawful := by
  have hl := takeReading_label (label_of_labelLawful h) h.glyphs
  have hj := takeReading_lawful h.jobs
  cases hr : s.renderer with
  | rendering w =>
    simp only [takeReading, hr] at hl hj ⊢
    exact labelLawful_of hl hj h.port h.glyphs h.proof
  | _ =>
    simp only [takeReading, hr] at hl hj ⊢
    exact h

/-! ### The ends of the operations (R74, R96, R108, R133) -/

theorem endClear_labelLawful {a b : Nat} (hp : s.phase = .clearing a) : (endClear b s).labelLawful := by
  obtain ⟨h1, h2, -, h4⟩ := h.port
  obtain ⟨hbusy, hproof⟩ := h4 (by rw [hp]; simp)
  refine labelLawful_of ((label_of_labelLawful h).congr rfl rfl rfl rfl rfl rfl rfl rfl (accessFrom_of_eq rfl))
    (jobsLawful_congr h.jobs rfl rfl rfl id) ⟨h1, h2, fun _ => ?_, fun hn => absurd rfl hn⟩
    ⟨List.Pairwise.nil, fun e he => (by cases he)⟩ h.proof
  show s.port.busy = s.port.proof.isSome
  rw [hbusy, hproof]
  rfl

theorem finishClear_labelLawful : (finishClear s).labelLawful := by
  unfold finishClear
  split
  · exact (restServed_sameLabel _ _ _).labelLawful (endClear_labelLawful h (by assumption))
  · exact h

theorem finishBand_labelLawful : (finishBand s).labelLawful := by
  have hl := finishBand_label h.jobs (label_of_labelLawful h)
  have hj := (finishBand_lawful h.jobs).1
  cases hr : s.renderer with
  | rendering w =>
    rw [finishBand_eq hr] at hl hj ⊢
    have hmem : ({ s with mem := composeRest s w } : State).labelLawful :=
      SameLabel.labelLawful (s := s) ⟨rfl, rfl, rfl, rfl, rfl, rfl, rfl, rfl, rfl, rfl, id⟩ h
    exact labelLawful_of_labelOnly hmem (bandDone_labelOnly w _) hl hj
  | _ =>
    simp only [finishBand, hr]
    exact h

/-- The end of a PROOF copy: the hold ends and the renderer looks (R74). -/
theorem endProof_labelLawful : (endProof s).labelLawful := by
  have hs := label_of_labelLawful h
  have hj := (endProof_lawful h.jobs).1
  cases hc : s.port.proof with
  | none =>
    simp only [endProof, hc]
    exact h
  | some c =>
    have hready : s.phase = .ready := by
      by_contra hn
      obtain ⟨-, hnone⟩ := h.port.2.2.2 hn
      rw [hnone] at hc
      cases hc
    simp only [endProof, hc] at hj ⊢
    have hlook : (complete ⟨.ok, c.line s.mem s.headCfg.lineBytes⟩
        { s with port := { s.port with proof := none } } : State).headLawful := by
      refine (flightKept_of_eq (s := s) rfl rfl rfl rfl (accessFrom_of_eq rfl)).headLawful hs.head fun _ => ?_
      exact settledMode_of id fun j hj => ⟨j, hj, rowReady_of (.refl j) fun _ _ _ _ => Iff.rfl⟩
    have hl := look_labelOnly (complete ⟨.ok, c.line s.mem s.headCfg.lineBytes⟩
        { s with port := { s.port with proof := none } } : State)
    refine labelLawful_of (look_label (hs.table.congr rfl rfl rfl rfl rfl) hs.history hlook) hj ?_ ?_ ?_
    · exact hl.portLawful ⟨h.port.1, Nat.zero_le _, fun _ => rfl, fun hn => absurd hready hn⟩
    · have := h.glyphs
      unfold State.glyphsLawful at *
      rw [hl.glyphs]
      exact this
    · intro c' hc'
      rw [hl.proof] at hc'
      cases hc'

theorem endFetch_labelLawful (hq : s.fetchQuiet) : (endFetch s).labelLawful :=
  labelLawful_of_labelOnly h (by
    unfold endFetch
    split
    · exact lineFetched_labelOnly _ s
    · exact .refl s) (endFetch_label (label_of_labelLawful h) hq) (endFetch_lawful h.jobs).1

/-- The ends that an access brings about, and the next grant (R128). -/
theorem regrant_due_labelLawful : (regrant (due s)).labelLawful := by
  have hclear : (dueClear s).labelLawful := by
    unfold dueClear
    split
    · split
      · exact endClear_labelLawful h (by assumption)
      · exact h
    · exact h
  have hfetch : (dueFetch (dueClear s)).labelLawful := by
    generalize dueClear s = u at hclear
    unfold dueFetch
    split
    · rename_i line hm
      split
      · rename_i hle
        refine endFetch_labelLawful hclear fun a ha hl hc => ?_
        have hr := (label_of_labelLawful hclear).head.2.2 a ha hl hc
        unfold fetchRequest at hr
        simp [hm, Nat.not_lt.mpr hle] at hr
      · exact hclear
    · exact hclear
  have hband : (dueBand (dueFetch (dueClear s))).labelLawful := by
    unfold dueBand
    split
    · exact finishBand_labelLawful hfetch
    · exact hfetch
  have hproof : (due s).labelLawful := by
    unfold due dueProof
    split
    · split
      · exact endProof_labelLawful hband
      · exact hband
    · exact hband
  have hlabel := regrant_label (label_of_labelLawful hproof)
  have hj : (regrant (due s)).jobsLawful := (regrant_due_lawful h.jobs).1
  rw [regrant_arbiter] at hlabel hj ⊢
  exact labelLawful_of hlabel hj hproof.port hproof.glyphs hproof.proof

end

/-! ### Nothing in work (R100, R63, R132, R175) -/

/-- Nothing of a label is in work: no job, no placement, no band, and renderer and head channel in IDLE. -/
structure State.Blank (s : State) : Prop where
  jobs : s.jobs = ⟨none, none⟩
  placements : s.placements = []
  bands : ∀ i, s.ring.bandAt i = none
  renderer : s.renderer = .idle
  mode : s.head.mode = .idle
  quiet : s.fetchQuiet

section
variable {s : State} (h : s.Blank)
include h

theorem State.Blank.stands : s.Stands := by
  have hin : s.jobs.InEvent := by
    rw [h.jobs]
    exact ⟨fun _ => rfl, fun _ hk => (by cases hk), fun _ hk => (by cases hk), fun _ hk => (by cases hk)⟩
  refine ⟨⟨hin, workLawful_of_none (by rw [h.renderer]; rfl)⟩, fun j hj => ?_⟩
  rw [h.jobs] at hj
  cases hj

theorem State.Blank.label (hcfg : s.configLawful) (hh : s.historyLawful) : s.Label := by
  have hwork : ∀ w, w ∉ s.renderer.work := fun w hw => by
    rw [h.renderer] at hw
    cases hw
  refine ⟨⟨⟨hcfg, h.stands.mid, ?_, fun i b hb => ?_, fun w hw => absurd hw (hwork w), fun d _ e _ b hb => ?_, fun k hk => ?_,
    fun w hw => absurd hw (hwork w)⟩, ?_, hh⟩, fun _ => ?_, fun x hx => ?_, fun a ha hl hc => absurd hc (h.quiet a ha hl)⟩
  · rw [State.placementsLawful, h.placements]
    exact ⟨List.Pairwise.nil, fun p hp => (by cases hp)⟩
  · rw [h.bands] at hb
    cases hb
  · rw [h.bands] at hb
    cases hb
  · rw [h.jobs] at hk
    cases hk
  · rw [lookSettled_iff]
    refine fun _ => .inl ⟨?_, h.renderer⟩
    rw [h.jobs]
    rfl
  · rw [h.mode, State.settledMode, h.jobs]
  · rw [h.mode] at hx
    cases hx

end

/-- With the job table empty nothing is in work. -/
theorem blank_of_label {s : State} (h : s.Label) (hj : s.jobs = ⟨none, none⟩) : s.Blank := by
  have hfind : ∀ a, s.jobs.find a = none := fun a => find_eq_none.mpr (by simp [hj])
  have hbands : ∀ i, s.ring.bandAt i = none := fun i => by
    cases hb : s.ring.bandAt i with
    | none => rfl
    | some b =>
      obtain ⟨j, hj', -⟩ := h.table.band_job hb
      rw [hfind] at hj'
      cases hj'
  have hplace : s.placements = [] := by
    refine List.eq_nil_iff_forall_not_mem.mpr fun p hp => ?_
    obtain ⟨-, -, -, -, -, j, hj', -⟩ := h.table.placements.2 p hp
    rw [hfind] at hj'
    cases hj'
  have hwork : s.renderer.work = none := by
    cases hw : s.renderer.work with
    | none => rfl
    | some w =>
      obtain ⟨b, hb, -⟩ := h.table.working w hw
      rw [hbands] at hb
      cases hb
  have hrend : s.renderer = .idle := by
    rcases (lookSettled_iff s).mp h.looked hwork with ⟨-, hr⟩ | ⟨j, hr, -⟩
    · exact hr
    · rw [hj] at hr
      cases hr
  have hflight : s.head.mode.flight = none := by
    cases hf : s.head.mode.flight with
    | none => rfl
    | some x =>
      obtain ⟨⟨j, hj', -⟩, -⟩ := h.head.2.1 x hf
      rw [hj] at hj'
      cases hj'
  have hmode : s.head.mode = .idle := by
    rw [h.head.1 hflight, State.settledMode, hj]
  refine ⟨hj, hplace, hbands, hrend, hmode, fun a ha hl hc => ?_⟩
  have hr := h.head.2.2 a ha hl hc
  unfold fetchRequest at hr
  rw [hmode] at hr
  cases hr

/-- While RESET is asserted, and through the clear, the law holds as at reset (R132). -/
theorem inReset_labelLawful (s : State) {phase : PowerPhase} (hp : phase ≠ .ready) : (s.inReset phase).labelLawful :=
  labelLawful_of ((label_of_labelLawful reset_labelLawful).congr rfl rfl rfl rfl rfl rfl rfl rfl (accessFrom_of_eq rfl))
    reset_labelLawful.jobs ⟨Nat.zero_le _, Nat.le_refl _, fun h => absurd h hp, fun _ => ⟨rfl, rfl⟩⟩ reset_labelLawful.glyphs
    reset_labelLawful.proof

end Sys2Proof.Machine
end

section
/-! What the commands' checks let through keeps the law: configurations, glyph descriptors, placements and PROOF copies. -/

namespace Sys2Proof.Machine

/-! ### SET_HEAD and SET_BANDS (R62, R100) -/

theorem jobs_of_isEmpty {t : JobTable} (h : t.isEmpty = true) : t = ⟨none, none⟩ := by
  obtain ⟨front, back⟩ := t
  simp only [JobTable.isEmpty, Bool.and_eq_true, Option.isNone_iff_eq_none] at h
  rw [h.1, h.2]

theorem parseHead_lawful {ps : List Byte} {c : HeadConfig} (h : parseHead ps = .ok c) : c.lawful := by
  unfold parseHead at h
  split at h
  · split at h
    · rename_i hc
      obtain ⟨h1, h2, h3, h4, h5, h6, h7, h8, h9⟩ := hc
      obtain rfl := Except.ok.inj h
      have hceil : Config.strobeCeiling = 2500 := rfl
      refine ⟨h1, h2, h3, h4, h5, h6, ?_, ?_, ?_⟩ <;> dsimp only <;> omega
    · cases h
  · cases h

theorem setHeadCheck_ok {ps : List Byte} {s : State} {c : HeadConfig} (h : setHeadCheck ps s = .ok c) :
    s.jobs = ⟨none, none⟩ ∧ c.lawful ∧ s.ring.base + s.ring.n * (c.dots / 8) * s.ring.h ≤ 65536 := by
  unfold setHeadCheck at h
  split at h
  · rename_i he
    split at h
    · cases h
    · rename_i c' hc
      split at h
      · cases h
      · rename_i hz
        obtain rfl := Except.ok.inj h
        exact ⟨jobs_of_isEmpty he, parseHead_lawful hc, Nat.not_lt.mp hz⟩
  · cases h

theorem parseBands_ok {ps : List Byte} {p : BandParams} (h : parseBands ps = .ok p) :
    p.base % 16 = 0 ∧ p.h ∈ [8, 16, 32, 64] ∧ 2 ≤ p.n ∧ p.n ≤ 8 := by
  unfold parseBands at h
  split at h
  · split at h
    · rename_i hp
      obtain rfl := Except.ok.inj h
      exact hp
    · cases h
  · cases h

theorem setBandsCheck_ok {ps : List Byte} {s : State} {p : BandParams} (h : setBandsCheck ps s = .ok p) :
    s.jobs = ⟨none, none⟩ ∧ (p.base % 16 = 0 ∧ p.h ∈ [8, 16, 32, 64] ∧ 2 ≤ p.n ∧ p.n ≤ 8) ∧
      p.base + p.n * (s.headCfg.dots / 8) * p.h ≤ 65536 := by
  unfold setBandsCheck at h
  split at h
  · rename_i he
    split at h
    · cases h
    · rename_i p' hp
      split at h
      · cases h
      · rename_i hz
        obtain rfl := Except.ok.inj h
        exact ⟨jobs_of_isEmpty he, parseBands_ok hp, Nat.not_lt.mp hz⟩
  · cases h

/-- SET_HEAD keeps the label: nothing is in work (R100). -/
theorem setHeadAct_label {ps : List Byte} {s : State} {c : HeadConfig} (h : s.Label) (hc : setHeadCheck ps s = .ok c) :
    (setHeadAct c s).Label := by
  obtain ⟨hj, hlawful, hzone⟩ := setHeadCheck_ok hc
  have hb := blank_of_label h hj
  obtain ⟨-, hbase, hh, hn2, hn8, -, hbands, hclaim⟩ := h.table.config
  have hblank : (setHeadAct c s).Blank := ⟨hb.jobs, hb.placements, hb.bands, hb.renderer, hb.mode, hb.quiet⟩
  exact hblank.label ⟨hlawful, hbase, hh, hn2, hn8, hzone, hbands, hclaim⟩ List.length_replicate

theorem replicate_bandAt (base h n m claim i : Nat) : (Ring.mk base h n (List.replicate m none) claim).bandAt i = none := by
  simp only [Ring.bandAt, List.getElem?_replicate]
  split <;> rfl

/-- SET_BANDS keeps the label: nothing is in work (R63). -/
theorem setBandsAct_label {ps : List Byte} {s : State} {p : BandParams} (h : s.Label) (hc : setBandsCheck ps s = .ok p) :
    (setBandsAct p s).Label := by
  obtain ⟨hj, ⟨hbase, hh, hn2, hn8⟩, hzone⟩ := setBandsCheck_ok hc
  have hb := blank_of_label h hj
  have hblank : (setBandsAct p s).Blank :=
    ⟨hb.jobs, hb.placements, replicate_bandAt _ _ _ _ _, hb.renderer, hb.mode, hb.quiet⟩
  refine hblank.label ⟨h.table.config.1, hbase, hh, hn2, hn8, hzone, List.length_replicate, ?_⟩ h.history
  show 0 < p.n
  omega

/-! ### SOFT_RESET (R175, R176) -/

theorem landInProgress_kept (s : State) : s.landInProgress.ring = s.ring ∧ s.landInProgress.headCfg = s.headCfg ∧
    s.landInProgress.glyphs = s.glyphs ∧ s.landInProgress.phase = s.phase := by
  unfold State.landInProgress
  split
  · unfold State.land
    split <;> exact ⟨rfl, rfl, rfl, rfl⟩
  · exact ⟨rfl, rfl, rfl, rfl⟩

/-- After SOFT_RESET nothing is in work. -/
theorem softResetAct_label {s : State} (h : s.configLawful) : (softResetAct s).Label := by
  obtain ⟨hring, hcfg, -, -⟩ := landInProgress_kept s
  obtain ⟨hc, hbase, hh, hn2, hn8, hzone, -, -⟩ := h
  have hblank : (softResetAct s).Blank :=
    ⟨rfl, rfl, replicate_bandAt _ _ _ _ _, rfl, rfl, fun a ha => (by cases ha)⟩
  have hr : (softResetAct s).ring = { s.ring with bands := List.replicate s.ring.n none, claim := 0 } := by
    simp only [softResetAct, hring]
  have hf : (softResetAct s).headCfg = s.headCfg := hcfg
  refine hblank.label ⟨hf ▸ hc, ?_⟩ List.length_replicate
  unfold State.zoneLawful
  rw [hr, hf]
  refine ⟨hbase, hh, hn2, hn8, hzone, List.length_replicate, ?_⟩
  show 0 < s.ring.n
  omega

/-! ### DEFINE_GLYPH and RESTORE_GLYPH (R52, R53, R54) -/

/-- The ranges of a RAM descriptor, its footprint inside memory (R47, R52). -/
def RamGlyph.Ranged (g : RamGlyph) : Prop :=
  1 ≤ g.width ∧ g.width ≤ 32 ∧ 1 ≤ g.height ∧ g.height ≤ 64 ∧ 1 ≤ g.advance ∧ g.advance ≤ 40 ∧
    g.base + g.footprint ≤ 65536

theorem defineGlyphCheck_ok {ps : List Byte} {s : State} {e : GlyphEntry} (h : defineGlyphCheck ps s = .ok e) :
    e.glyph.Ranged := by
  unfold defineGlyphCheck at h
  split at h
  · cases h
  rename_i e' he
  dsimp only at h
  split at h
  · cases h
  rename_i hlast
  split at h
  · cases h
  obtain rfl := Except.ok.inj h
  unfold parseGlyph at he
  split at he
  · split at he
    · rename_i hr
      obtain rfl := Except.ok.inj he
      obtain ⟨h1, h2, h3, h4, h5, h6⟩ := hr
      exact ⟨h1, h2, h3, h4, h5, h6, Nat.not_lt.mp hlast⟩
    · cases he
  · cases he

theorem setGlyph_mem {es : List GlyphEntry} {e f : GlyphEntry} (h : f ∈ setGlyph es e) : f = e ∨ f ∈ es := by
  induction es with
  | nil => exact .inl (List.mem_singleton.mp h)
  | cons g gs ih =>
    unfold setGlyph at h
    split at h
    · exact List.mem_cons.mp h
    · split at h
      · exact (List.mem_cons.mp h).imp_right (List.mem_cons_of_mem _)
      · rcases List.mem_cons.mp h with rfl | h
        · exact .inr (List.mem_cons_self ..)
        · exact (ih h).imp_right (List.mem_cons_of_mem _)

/-- A descriptor set keeps the store sorted by code. -/
theorem setGlyph_sorted {es : List GlyphEntry} (h : es.Pairwise fun e f => e.code.toNat < f.code.toNat) (e : GlyphEntry) :
    (setGlyph es e).Pairwise fun e f => e.code.toNat < f.code.toNat := by
  induction es with
  | nil => exact List.pairwise_singleton _ _
  | cons g gs ih =>
    obtain ⟨hg, hgs⟩ := List.pairwise_cons.mp h
    unfold setGlyph
    split
    · rename_i hlt
      refine List.pairwise_cons.mpr ⟨fun f hf => ?_, h⟩
      rcases List.mem_cons.mp hf with rfl | hf
      · exact hlt
      · exact hlt.trans (hg f hf)
    · rename_i hge
      split
      · rename_i heq
        exact List.pairwise_cons.mpr ⟨fun f hf => heq ▸ hg f hf, hgs⟩
      · rename_i hne
        refine List.pairwise_cons.mpr ⟨fun f hf => ?_, ih hgs⟩
        rcases setGlyph_mem hf with rfl | hf
        · have hcode : f.code.toNat ≠ g.code.toNat := fun h => hne (BitVec.eq_of_toNat_eq h)
          omega
        · exact hg f hf

theorem defineGlyph_glyphsLawful {s : State} (h : s.glyphsLawful) {e : GlyphEntry} (he : e.glyph.Ranged) :
    (defineGlyphAct e s).glyphsLawful := by
  refine ⟨setGlyph_sorted h.1 e, fun f hf => ?_⟩
  rcases setGlyph_mem hf with rfl | hf
  · exact he
  · exact h.2 f hf

theorem restoreGlyph_glyphsLawful {s : State} (h : s.glyphsLawful) (code : Byte) : (restoreGlyphAct code s).glyphsLawful :=
  ⟨h.1.filter _, fun e he => h.2 e (List.mem_filter.mp he).1⟩

/-! ### PROOF (R73, R74) -/

/-- The line of a band's row lies inside the band zone, and so inside memory (R60, R124). -/
theorem lineAddr_inside {s : State} (h : s.Table) {i row : Nat} {b : Band} (hb : s.ring.bandAt i = some b)
    (hrow : row < b.first + b.count) : s.lineAddr i b.first row + s.headCfg.dots / 8 ≤ 65536 := by
  obtain ⟨-, -, -, -, -, hzone, -, -⟩ := h.config
  obtain ⟨h1, h2, -⟩ := h.bands i b hb
  have hi : i + 1 ≤ s.ring.n := h.length ▸ lt_of_bandAt hb
  have hline : (row - b.first + 1) * (s.headCfg.dots / 8) ≤ s.ring.h * (s.headCfg.dots / 8) :=
    Nat.mul_le_mul_right _ (by omega)
  have hband : (i + 1) * (s.headCfg.dots / 8) * s.ring.h ≤ s.ring.n * (s.headCfg.dots / 8) * s.ring.h :=
    Nat.mul_le_mul_right _ (Nat.mul_le_mul_right _ hi)
  have hsplit : (i + 1) * (s.headCfg.dots / 8) * s.ring.h =
      i * (s.headCfg.dots / 8) * s.ring.h + s.ring.h * (s.headCfg.dots / 8) := by ring
  have hline' : (row - b.first + 1) * (s.headCfg.dots / 8) =
      (row - b.first) * (s.headCfg.dots / 8) + s.headCfg.dots / 8 := by ring
  show s.ring.base + i * (s.headCfg.dots / 8) * s.ring.h + (row - b.first) * (s.headCfg.dots / 8) + s.headCfg.dots / 8 ≤ 65536
  omega

theorem proofCheck_ok {ps : List Byte} {s : State} {c : ProofCopy} (h : proofCheck ps s = .ok c) :
    ∃ b row, s.ring.bandAt c.band = some b ∧ row < b.first + b.count ∧ c.addr = s.lineAddr c.band b.first row := by
  unfold proofCheck at h
  split at h
  · cases h
  rename_i tag row _
  split at h
  · cases h
  rename_i i hi
  split at h
  swap
  · cases h
  rename_i b hb
  obtain rfl := Except.ok.inj h
  refine ⟨b, row, hb, ?_, rfl⟩
  unfold State.proofBand at hi
  split at hi
  · cases hi
  obtain ⟨hlt, hholds, -⟩ := List.findIdx?_eq_some_iff_getElem.mp hi
  have hbi : s.ring.bands[i] = some b := by simpa [Ring.bandAt, hlt] using hb
  rw [hbi] at hholds
  dsimp only at hholds
  unfold State.proofHolds Band.holds at hholds
  simp only [Bool.and_eq_true, decide_eq_true_eq] at hholds
  exact hholds.1.2.2

end Sys2Proof.Machine
end

section
/-! PLACE and WITHDRAW keep the label's law (R23, R24, R29, R34, R37, R39). -/

namespace Sys2Proof.Machine

/-! ### The parameters of PLACE (R33, R35) -/

/-- A kind part with at least one dot, or at least one code. -/
def PlaceBody.Sized : PlaceBody → Prop
  | .bar width height => 1 ≤ width ∧ 1 ≤ height
  | .image width height _ _ => 1 ≤ width ∧ 1 ≤ height
  | .glyphs _ codes => codes ≠ []

theorem extentOk_sized {c : PlaceCommon} {width height : Nat} (h : extentOk c width height = true) : 1 ≤ width ∧ 1 ≤ height := by
  simp only [extentOk, Bool.and_eq_true, decide_eq_true_eq] at h
  exact ⟨h.1.1, h.1.2.2.1⟩

theorem parseBody_sized {kind : Byte} {common : Option PlaceCommon} {rest : List Byte} {p : PlaceParams}
    (h : parseBody kind common rest = .ok p) : p.body.Sized := by
  unfold parseBody at h
  split at h
  · split at h
    · split at h
      · split at h
        · rename_i hext
          obtain rfl := Except.ok.inj h
          exact extentOk_sized hext
        · cases h
      · cases h
    · cases h
  · split at h
    · split at h
      · split at h
        · split at h
          · rename_i hext
            obtain rfl := Except.ok.inj h
            exact extentOk_sized hext.1
          · cases h
        · cases h
      · cases h
    · split at h
      · split at h
        · split at h
          · split at h
            · split at h
              · obtain rfl := Except.ok.inj h
                exact List.cons_ne_nil _ _
              · cases h
            · cases h
          · cases h
        · cases h
      · cases h

theorem parsePlace_sized {ps : List Byte} {p : PlaceParams} (h : parsePlace ps = .ok p) : p.body.Sized := by
  unfold parsePlace at h
  split at h
  · exact parseBody_sized h
  · cases h

/-! ### The extent of a run (R29) -/

/-- A descriptor that is not undefined has a row and an advance (R47, R48). -/
theorem glyph_sized {s : State} (h : s.glyphsLawful) {code : Byte} (hc : s.glyph code ≠ .undefined) :
    1 ≤ (s.glyph code).height ∧ 1 ≤ (s.glyph code).advance := by
  rcases glyph_cases s code with ⟨e, he, -, hg⟩ | hg
  · obtain ⟨-, -, hh, -, ha, -⟩ := h.2 e he
    rw [hg]
    exact ⟨hh, ha⟩
  · unfold defaultGlyph at hg
    split at hg
    · rw [hg]
      exact ⟨by decide, by decide⟩
    · exact absurd hg hc

theorem foldl_max_ge (f : Byte → Nat) (codes : List Byte) (n : Nat) : n ≤ codes.foldl (fun h c => max h (f c)) n := by
  induction codes generalizing n with
  | nil => exact Nat.le_refl n
  | cons c cs ih => exact (Nat.le_max_left n (f c)).trans (ih _)

theorem foldl_add_ge (f : Byte → Nat) (k : Nat) (codes : List Byte) (n : Nat) :
    n ≤ codes.foldl (fun w c => w + f c + k) n := by
  induction codes generalizing n with
  | nil => exact Nat.le_refl n
  | cons c cs ih => exact (Nat.le_add_right n (f c + k)).trans (by rw [← Nat.add_assoc]; exact ih _)

/-- A run of defined codes has at least one dot (R29). -/
theorem run_sized {s : State} (h : s.glyphsLawful) {spacing : Nat} {codes : List Byte} (hne : codes ≠ [])
    (hc : ∀ c ∈ codes, s.glyph c ≠ .undefined) : 1 ≤ s.runWidth spacing codes ∧ 1 ≤ s.runHeight codes := by
  obtain ⟨c, cs, rfl⟩ := List.exists_cons_of_ne_nil hne
  obtain ⟨hh, ha⟩ := glyph_sized h (hc c (List.mem_cons_self ..))
  have hw := foldl_add_ge (fun c => (s.glyph c).advance) spacing cs (0 + (s.glyph c).advance + spacing)
  have hm := foldl_max_ge (fun c => (s.glyph c).height) cs (max 0 (s.glyph c).height)
  unfold State.runWidth State.runHeight
  rw [List.foldl_cons, List.foldl_cons]
  exact ⟨by omega, by omega⟩

/-! ### PLACE (R34, R37) -/

/-- The kind and the extent that checks 6 and 7 let through (R34). -/
theorem placeKindCheck_ok {s : State} (hg : s.glyphsLawful) {p : PlaceParams} (hp : p.body.Sized) {kind : PlaceKind}
    {width height : Nat} (h : placeKindCheck p s = .ok (kind, width, height)) (q : Placement) (hk : q.kind = kind)
    (hw : q.width = width) (hh : q.height = height) : 1 ≤ width ∧ 1 ≤ height ∧ q.hasCodes = true ∧ q.sourceInside = true := by
  unfold placeKindCheck at h
  cases hb : p.body with
  | bar w hgt =>
    rw [hb] at h hp
    obtain ⟨rfl, rfl, rfl⟩ : PlaceKind.bar = kind ∧ w = width ∧ hgt = height := by simpa using Except.ok.inj h
    exact ⟨hp.1, hp.2, by simp [Placement.hasCodes, hk], by simp [Placement.sourceInside, hk]⟩
  | image w hgt source stride =>
    rw [hb] at h hp
    dsimp only at h
    split at h
    · cases h
    · rename_i hlast
      split at h
      · cases h
      · obtain ⟨rfl, rfl, rfl⟩ : PlaceKind.image source stride = kind ∧ w = width ∧ hgt = height := by
          simpa using Except.ok.inj h
        refine ⟨hp.1, hp.2, by simp [Placement.hasCodes, hk], ?_⟩
        simp only [Placement.sourceInside, hk, hw, hh, decide_eq_true_eq]
        exact Nat.not_lt.mp hlast
  | glyphs spacing codes =>
    rw [hb] at h hp
    dsimp only at h
    split at h
    · cases h
    · rename_i hdef
      split at h
      · obtain ⟨rfl, rfl, rfl⟩ : PlaceKind.glyphs spacing codes = kind ∧ s.runWidth spacing codes = width ∧
            s.runHeight codes = height := by simpa using Except.ok.inj h
        obtain ⟨h1, h2⟩ := run_sized hg (spacing := spacing) hp fun c hc hu =>
          hdef (List.any_eq_true.mpr ⟨c, hc, decide_eq_true hu⟩)
        refine ⟨h1, h2, ?_, by simp [Placement.sourceInside, hk]⟩
        have hne : codes.isEmpty = false := List.isEmpty_eq_false_iff.mpr hp
        simp [Placement.hasCodes, hk, hne]
      · cases h

/-- The lowest free slot is below 64, and no placement has its handle (R23). -/
theorem freeHandle_some {ps : List Placement} {a : Nat} (h : freeHandle ps = some a) : a < 64 ∧ ∀ p ∈ ps, p.handle ≠ a := by
  refine ⟨List.mem_range.mp (List.mem_of_find?_eq_some h), fun p hp heq => ?_⟩
  have hfree := List.find?_some h
  rw [Bool.not_eq_true', List.any_eq_false] at hfree
  exact hfree p hp (decide_eq_true heq)

/-- A placement that PLACE accepts: what the table asks of it, of the OPEN job (R34, R37). -/
theorem placeCheck_ok {ps : List Byte} {s : State} (hg : s.glyphsLawful) {p : Placement} (h : placeCheck ps s = .ok p) :
    (p.handle < 64 ∧ ∀ q ∈ s.placements, q.handle ≠ p.handle) ∧ 1 ≤ p.width ∧ 1 ≤ p.height ∧ p.hasCodes = true ∧
      p.sourceInside = true ∧ ∃ j, s.jobs.openJob = some j ∧ p.job = j.tag ∧ p.top < j.length ∧
        p.lastRow = lastRowOf p.top p.height j.length p.repetition := by
  unfold placeCheck at h
  split at h
  · cases h
  rename_i j hj
  split at h
  · cases h
  rename_i params hparams
  split at h
  · cases h
  rename_i htop
  split at h
  · cases h
  split at h
  · cases h
  rename_i kind width height hkind
  split at h
  · cases h
  rename_i handle hhandle
  have hp := Except.ok.inj h
  obtain ⟨h1, h2, h3, h4⟩ := placeKindCheck_ok hg (parsePlace_sized hparams) hkind p (by rw [← hp]) (by rw [← hp]) (by rw [← hp])
  subst hp
  exact ⟨freeHandle_some hhandle, h1, h2, h3, h4, j, hj, rfl, Nat.not_le.mp htop, rfl⟩

/-- A change of the placements that keeps those the renderer has still to draw. -/
theorem withPlacements_label {s t : State} (h : s.Label) (ht : t = { s with placements := t.placements })
    (hp : t.placementsLawful) (hc : t.composeLawful) : t.Label := by
  have hj : t.jobs = s.jobs := by rw [ht]
  have hr : t.renderer = s.renderer := by rw [ht]
  have hring : t.ring = s.ring := by rw [ht]
  have hcfg : t.headCfg = s.headCfg := by rw [ht]
  have hhead : t.head = s.head := by rw [ht]
  have hport : t.port = s.port := by rw [ht]
  have hbase : ({ t with placements := s.placements } : State).Table := h.table.congr hj rfl hring hr hcfg
  refine ⟨⟨⟨hbase.config, hbase.mid.congr rfl rfl rfl, hp, hbase.bands, hbase.working, hbase.ordered, hbase.waits, hc⟩,
    lookSettled_congr h.looked hr hring hj (by rw [hport]), ?_⟩, ?_⟩
  · have := h.history
    unfold State.historyLawful at *
    rwa [hhead, hcfg]
  · refine (flightKept_of_eq (by rw [hhead]) hcfg hring (by rw [hj]) (accessFrom_of_eq (by rw [ht]))).headLawful h.head fun _ => ?_
    exact settledMode_of (fun hn => by rw [hj]; exact hn) fun j hj' => ⟨j, by rw [hj]; exact hj', rowReady_of (.refl j)
      fun _ _ _ _ => by rw [hring]⟩

theorem findPlacement_append {ps qs : List Placement} {a : Nat} {p : Placement} (h : findPlacement ps a = some p) :
    findPlacement (ps ++ qs) a = some p := by
  unfold findPlacement at *
  rw [List.find?_append, h]
  rfl

theorem placeAct_label {ps : List Byte} {s : State} (h : s.Label) (hg : s.glyphsLawful) {p : Placement}
    (hc : placeCheck ps s = .ok p) : (placeAct p s).Label := by
  obtain ⟨⟨hlt, hfresh⟩, h1, h2, h3, h4, j, hopen, htag, htop, hlast⟩ := placeCheck_ok hg hc
  obtain ⟨hholds, hstate⟩ := openJob_eq_some hopen
  refine withPlacements_label h rfl ⟨?_, fun q hq => ?_⟩ ?_
  · refine List.pairwise_append.mpr ⟨h.table.placements.1, List.pairwise_singleton _ _, fun q hq r hr => ?_⟩
    obtain rfl := List.mem_singleton.mp hr
    exact hfresh q hq
  · rcases List.mem_append.mp hq with hq | hq
    · exact h.table.placements.2 q hq
    · obtain rfl := List.mem_singleton.mp hq
      have hfind := h.table.mid.table.find_of_holds hholds
      exact ⟨hlt, h1, h2, h3, h4, j, htag ▸ hfind, by simp [Job.isAborting, hstate], htop, hlast⟩
  · exact composeLawful_of h.table.composed rfl (fun w hw => hw) fun _ _ _ _ _ hf _ _ => findPlacement_append hf

/-! ### WITHDRAW (R39) -/

theorem withdrawCheck_ok {ps : List Byte} {s : State} {a : Nat} (h : withdrawCheck ps s = .ok a) :
    ∃ p, findPlacement s.placements a = some p ∧ p.active = false := by
  unfold withdrawCheck at h
  split at h
  · cases h
  split at h
  · cases h
  split at h
  · cases h
  rename_i p hp
  split at h
  · cases h
  rename_i hactive
  obtain rfl := Except.ok.inj h
  exact ⟨p, hp, by simpa using hactive⟩

/-- A PENDING placement withdrawn is none the renderer draws (R39). -/
theorem withdrawAct_label {ps : List Byte} {s : State} (h : s.Label) {a : Nat} (hc : withdrawCheck ps s = .ok a) :
    (withdrawAct a s).Label := by
  obtain ⟨q, hq, hpending⟩ := withdrawCheck_ok hc
  have hp := h.table.placements
  refine withPlacements_label h rfl ⟨hp.1.filter _, fun p hp' => hp.2 p (List.mem_filter.mp hp').1⟩ ?_
  refine composeLawful_of h.table.composed rfl (fun w hw => hw) fun w _ c _ p hf hactive _ => findPlacement_filter hf ?_
  refine decide_eq_true fun heq => ?_
  rw [← (findPlacement_some hf).2, heq, hq] at hf
  obtain rfl := Option.some.inj hf
  rw [hpending] at hactive
  cases hactive

end Sys2Proof.Machine
end

section
/-! Every step keeps the whole law of the label in work. -/

namespace Sys2Proof.Machine

/-! ### A command taken (R164, R166) -/

/-- The part once it has taken a command: the command port busy with it, with no copy going on, and the label lawful. -/
structure State.Taken (s : State) : Prop where
  label : s.Label
  jobs : s.jobsLawful
  glyphs : s.glyphsLawful
  phase : s.phase = .ready
  busy : s.port.busy = true
  params : s.port.params = []
  answer : s.port.answerPos = 0
  proof : s.port.proof = none

theorem take_taken {s : State} (h : s.labelLawful) (ha : s.admits) (code : Byte) : (take code s).Taken where
  label := (label_of_labelLawful h).congr rfl rfl rfl rfl rfl rfl rfl rfl (accessFrom_of_eq rfl)
  jobs := jobsLawful_congr h.jobs rfl rfl rfl id
  glyphs := h.glyphs
  phase := ha.1
  busy := rfl
  params := rfl
  answer := rfl
  proof := by
    have hproof := h.port.2.2.1 ha.1
    rw [ha.2] at hproof
    exact Option.isNone_iff_eq_none.mp (by simpa using hproof.symm)

/-- A command that has completed leaves the law (R166). -/
theorem complete_labelLawful {u : State} (hl : u.Label) (hj : u.jobsLawful) (hg : u.glyphsLawful) (hphase : u.phase = .ready)
    (hparams : u.port.params = []) (hproof : u.port.proof = none) (r : Reply) : (complete r u).labelLawful := by
  refine labelLawful_of (hl.congr rfl rfl rfl rfl rfl rfl rfl rfl (accessFrom_of_eq rfl))
    (jobsLawful_congr hj rfl rfl rfl id) ⟨?_, Nat.zero_le _, fun _ => ?_, fun hn => absurd hphase hn⟩ hg fun c hc => ?_
  · show u.port.params.length ≤ 48
    rw [hparams]
    exact Nat.zero_le _
  · show false = u.port.proof.isSome
    rw [hproof]
    rfl
  · rw [show (complete r u).port.proof = none from hproof] at hc
    cases hc

/-- A change of the job table and a look change the label alone. -/
theorem look_withJobs_labelOnly (t : JobTable) (s : State) : LabelOnly s (look (s.withJobs t)) :=
  LabelOnly.trans (t := s.withJobs t) ⟨rfl, rfl, rfl, rfl, rfl, rfl, rfl, rfl, rfl, rfl, rfl⟩ (look_labelOnly _)

theorem openJobAct_labelOnly {s : State} {ps : List Byte} {p : OpenParams} (hc : openJobCheck ps s = .ok p) :
    LabelOnly s (openJobAct p s) := by
  cases hf : s.jobs.front with
  | none =>
    obtain ⟨hback, -⟩ := openJobCheck_ok hc
    have hb : LabelOnly s (s.withJobs ⟨some p.job, none⟩).beginning := ⟨rfl, rfl, rfl, rfl, rfl, rfl, rfl, rfl, rfl, rfl, rfl⟩
    rw [openJobAct_front hf hback]
    exact (hb.trans (settle_labelOnly _)).trans (look_labelOnly _)
  | some j =>
    rw [openJobAct_back hf]
    exact look_withJobs_labelOnly _ s

section
variable {s : State} (h : s.Taken)
include h

/-- A command that changes the label alone, and completes. -/
theorem State.Taken.completed {u : State} (hlo : LabelOnly s u) (hl : u.Label) (hj : u.jobsLawful) (r : Reply) :
    (complete r u).labelLawful := by
  refine complete_labelLawful hl hj ?_ (hlo.phase.trans h.phase) (hlo.params.trans h.params) (hlo.proof.trans h.proof) r
  have := h.glyphs
  unfold State.glyphsLawful at *
  rwa [hlo.glyphs]

/-- OPEN_JOB into an empty table (R7). -/
theorem openFront_label {ps : List Byte} {p : OpenParams} (hc : openJobCheck ps s = .ok p) (hj : s.jobs = ⟨none, none⟩) :
    (openJobAct p s).Label := by
  have hb := blank_of_label h.label hj
  have hstands := openFront_stands h.jobs hc (by rw [hj])
  have hbands : ∀ i, (s.withJobs ⟨some p.job, none⟩).ring.bandAt i = none := hb.bands
  have hwork : ∀ w, w ∉ s.renderer.work := fun w hw => by
    rw [hb.renderer] at hw
    cases hw
  have hplace : (s.withJobs ⟨some p.job, none⟩).placementsLawful := by
    have hnil : (s.withJobs ⟨some p.job, none⟩).placements = [] := hb.placements
    rw [State.placementsLawful, hnil]
    exact ⟨List.Pairwise.nil, fun q hq => (by cases hq)⟩
  have ht : (s.withJobs ⟨some p.job, none⟩).Table := by
    refine ⟨h.label.table.config, hstands.mid, hplace, fun i b hi => ?_, fun w hw => absurd hw (hwork w),
      fun d _ e _ b hi => ?_, fun k hk => (by cases hk), fun w hw => absurd hw (hwork w)⟩ <;>
    · rw [hbands] at hi
      cases hi
  have hu : (s.withJobs ⟨some p.job, none⟩).beginning.Table := ht.congr rfl rfl rfl rfl rfl
  have hl : (s.withJobs ⟨some p.job, none⟩).beginning.head.lineInFlight = false := by
    show s.head.lineInFlight = false
    simp [Head.lineInFlight, hb.mode]
  rw [openJobAct_front (by rw [hj]) (by rw [hj])]
  refine look_label (hu.congr (by simp) (by simp) (by simp) (by simp) (by simp)) ?_ (settle_headLawful hb.quiet hl)
  unfold State.historyLawful
  rw [settle_history, settle_headCfg]
  exact List.length_replicate

theorem openJobAct_label {ps : List Byte} {p : OpenParams} (hc : openJobCheck ps s = .ok p) : (openJobAct p s).Label := by
  cases hf : s.jobs.front with
  | none =>
    refine openFront_label h hc ?_
    obtain ⟨hback, -⟩ := openJobCheck_ok hc
    rcases hjobs : s.jobs with ⟨front, back⟩
    rw [hjobs] at hf hback
    obtain rfl := hf
    obtain rfl := hback
    rfl
  | some j =>
    rw [openJobAct_back hf]
    exact openBack_label h.jobs h.label hc hf

theorem commitAct_label {ps : List Byte} {x : Job × Nat} (hc : commitCheck ps s = .ok x) : (commitAct x.1 x.2 s).Label := by
  unfold commitAct
  split
  · exact look_update_label h.jobs h.label (commits_committedTo h.jobs hc)
  · exact h.label

theorem abortJobAct_label {ps : List Byte} {j : Job} (hc : abortJobCheck ps s = .ok j) : (abortJobAct j s).Label := by
  obtain ⟨hfind, -⟩ := abortJobCheck_ok hc
  unfold abortJobAct
  split
  · rename_i hfront
    have hj := front_of_isFront hfront hfind
    split
    · exact abortInFlight_label h.label (by assumption) .host
    · rename_i hl
      have hl' : s.head.lineInFlight = false := by simpa using hl
      have hb := between_of_label h.label h.jobs hl'
      refine settle_label ⟨abortFrontAtOnce_midLine hb.toMidLine hj .host, (abortFrontAtOnce_mid hb.table.mid hj .host).2,
        hb.quiet.of (abortFrontAtOnce_accessFrom _ _ s)⟩ ?_
      simpa [abortFrontAtOnce, Head.lineInFlight] using hl'
  · rename_i hfront
    refine abortBack_label h.label ?_
    rcases holds_of_find hfind with hf | hb
    · exact absurd (isFront_iff.mpr ⟨j, hf, rfl⟩) hfront
    · exact hb

/-- A PROOF copy begins inside memory, and holds its band (R74). -/
theorem proofAct_labelLawful {ps : List Byte} {c : ProofCopy} (hc : proofCheck ps s = .ok c) :
    (proofAct c s).1.labelLawful := by
  obtain ⟨b, row, hb, hrow, haddr⟩ := proofCheck_ok hc
  have hs := h.label
  refine labelLawful_of ⟨⟨hs.table.congr rfl rfl rfl rfl rfl, ?_, hs.history⟩, ?_⟩ (jobsLawful_congr h.jobs rfl rfl rfl id)
    ⟨?_, ?_, fun _ => h.busy, fun hn => absurd h.phase hn⟩ h.glyphs fun c' hc' => ?_
  · refine lookSettled_of hs.looked rfl rfl id (fun j hj => ⟨j, hj, rfl, rfl, rfl, rfl, rfl⟩) fun hcl => ?_
    unfold State.claimable at hcl ⊢
    rw [h.proof]
    rw [Bool.and_eq_true] at hcl ⊢
    exact ⟨hcl.1, rfl⟩
  · refine (flightKept_of_eq (s := s) rfl rfl rfl rfl (accessFrom_of_eq rfl)).headLawful hs.head fun _ => ?_
    exact settledMode_of id fun j hj => ⟨j, hj, rowReady_of (.refl j) fun _ _ _ _ => Iff.rfl⟩
  · show s.port.params.length ≤ 48
    rw [h.params]
    exact Nat.zero_le _
  · show s.port.answerPos ≤ s.port.answer.length
    rw [h.answer]
    exact Nat.zero_le _
  · obtain rfl := Option.some.inj hc'
    rw [haddr]
    exact lineAddr_inside hs.table hb hrow

/-- A command taken keeps the law. -/
theorem commanded_labelLawful {ps : List Byte} {t : State} (ht : Commanded ps s t) : t.labelLawful := by
  have kept : ∀ {u : State} (r : Reply), u.Label → u.jobsLawful → u.glyphsLawful → u.phase = s.phase → u.port = s.port →
      (complete r u).labelLawful := fun r hl hj hg hphase hport =>
    complete_labelLawful hl hj hg (hphase.trans h.phase) (hport ▸ h.params) (hport ▸ h.proof) r
  cases ht with
  | answered r => exact kept r h.label h.jobs h.glyphs rfl rfl
  | setHead c hc => exact kept _ (setHeadAct_label h.label hc) (jobsLawful_congr h.jobs rfl rfl rfl id) h.glyphs rfl rfl
  | setBands p hc =>
    obtain ⟨hj, -⟩ := setBandsCheck_ok hc
    have hb := blank_of_label h.label hj
    have hblank : (setBandsAct p s).Blank :=
      ⟨hb.jobs, hb.placements, replicate_bandAt _ _ _ _ _, hb.renderer, hb.mode, hb.quiet⟩
    exact kept _ (setBandsAct_label h.label hc) hblank.stands.lawful h.glyphs rfl rfl
  | defineGlyph e hc =>
    exact kept _ (h.label.congr rfl rfl rfl rfl rfl rfl rfl rfl (accessFrom_of_eq rfl)) (jobsLawful_congr h.jobs rfl rfl rfl id)
      (defineGlyph_glyphsLawful h.glyphs (defineGlyphCheck_ok hc)) rfl rfl
  | restoreGlyph code =>
    exact kept _ (h.label.congr rfl rfl rfl rfl rfl rfl rfl rfl (accessFrom_of_eq rfl)) (jobsLawful_congr h.jobs rfl rfl rfl id)
      (restoreGlyph_glyphsLawful h.glyphs code) rfl rfl
  | openJob p hc =>
    exact h.completed (openJobAct_labelOnly hc) (openJobAct_label h hc) (openJobAct_jobStep h.jobs hc).lawful _
  | place p hc => exact kept _ (placeAct_label h.label h.glyphs hc) (jobsLawful_congr h.jobs rfl rfl rfl id) h.glyphs rfl rfl
  | withdraw a hc => exact kept _ (withdrawAct_label h.label hc) (jobsLawful_congr h.jobs rfl rfl rfl id) h.glyphs rfl rfl
  | commit x hc =>
    refine h.completed ?_ (commitAct_label h hc) (commitAct_jobStep h.jobs hc).lawful _
    unfold commitAct
    split
    · exact look_withJobs_labelOnly _ s
    · exact .refl s
  | closeJob j hc =>
    exact h.completed (look_withJobs_labelOnly _ s)
      (look_update_label h.jobs h.label (commits_closing h.jobs hc)) (closeJobAct_jobStep h.jobs hc).lawful _
  | abortJob j hc =>
    exact h.completed (abortJobAct_labelOnly j s) (abortJobAct_label h hc) (abortJobAct_jobStep h.jobs hc).lawful _
  | loadSegment g =>
    unfold loadSegmentAct
    split <;> exact kept _ (h.label.congr rfl rfl rfl rfl rfl rfl rfl rfl (accessFrom_of_eq rfl))
      (jobsLawful_congr h.jobs rfl rfl rfl id) h.glyphs rfl rfl
  | stopUpload answer =>
    refine kept _ (h.label.congr rfl rfl rfl rfl rfl rfl rfl rfl ?_) (jobsLawful_congr h.jobs rfl rfl rfl id) h.glyphs rfl rfl
    exact orphan_accessFrom { s with upload := ⟨none, none, []⟩ } _
  | proof c hc => exact proofAct_labelLawful h hc

end

/-! ### Every event -/

section
variable {s : State} (h : s.labelLawful)
include h

theorem softReset_labelLawful (hphase : s.phase = .ready) :
    (complete ⟨.ok, []⟩ (softResetAct (take Config.codeSoftReset s))).labelLawful := by
  have hblank : (softResetAct (take Config.codeSoftReset s)).Blank :=
    ⟨rfl, rfl, replicate_bandAt _ _ _ _ _, rfl, rfl, fun a ha => (by cases ha)⟩
  obtain ⟨-, -, hglyphs, hph⟩ := landInProgress_kept (take Config.codeSoftReset s)
  refine complete_labelLawful (softResetAct_label (s := take Config.codeSoftReset s) h.config) hblank.stands.lawful ?_
    (hph.trans hphase) rfl rfl _
  have hg : (softResetAct (take Config.codeSoftReset s)).glyphs = s.glyphs := hglyphs
  have := h.glyphs
  unfold State.glyphsLawful at *
  rwa [hg]

theorem writeCmd_labelLawful (code : Byte) : (writeCmd code s).labelLawful := by
  have ht := writeCmd_written code s
  generalize writeCmd code s = t at ht
  cases ht with
  | held => exact h
  | refused =>
    exact SameLabel.labelLawful (s := s) ⟨rfl, rfl, rfl, rfl, rfl, rfl, rfl, rfl, rfl, rfl, portLawful_sticky rfl rfl⟩ h
  | softReset hphase => exact softReset_labelLawful h hphase
  | taken ha _ ht => exact commanded_labelLawful (take_taken h ha code) ht

/-- A change of the label that keeps the head channel's law and the job table's. -/
theorem kept_of_labelOnly {t : State} (hlo : LabelOnly s t) (hl : s.Label → t.Label) (hj : t.jobsLawful) : t.labelLawful :=
  labelLawful_of_labelOnly h hlo (hl (label_of_labelLawful h)) hj

theorem event_labelLawful {t : State} (he : Event s t) : t.labelLawful := by
  have hp := perform_labelLawful h
  cases he with
  | same hs => exact hs.labelLawful h
  | access hs => exact hs.labelLawful hp
  | command code => exact writeCmd_labelLawful h code
  | reset phase hn => exact inReset_labelLawful s hn
  | clearEnd a _ => exact finishClear_labelLawful hp
  | lineStep =>
    exact kept_of_labelOnly h (lineStepOp_labelOnly s) (fun hl => lineStepOp_label hl h.jobs) (lineStepOp_lawful h.jobs).1
  | hotReleased hs =>
    have hu := hs.labelLawful h
    exact kept_of_labelOnly hu (releaseHold_labelOnly _) releaseHold_label (releaseHold_lawful hu.jobs).1
  | fetchEnd =>
    refine endFetch_labelLawful hp fun a ha => ?_
    rw [(performed s).inProgress] at ha
    cases ha
  | shiftEnd => exact kept_of_labelOnly h (endShift_labelOnly s) endShift_label (endShift_lawful h.jobs).1
  | pulseEnd => exact kept_of_labelOnly h (endPulse_labelOnly s) endPulse_label (endPulse_lawful h.jobs).1
  | holdExpired => exact kept_of_labelOnly h (expireHold_labelOnly s) expireHold_label (expireHold_lawful h.jobs).1
  | bandEnd hs => exact finishBand_labelLawful (hs.labelLawful hp)
  | copyEnd hs => exact endProof_labelLawful (hs.labelLawful hp)

/-- One period of CLKIN: the timers, a grant and an access performed, and what they bring about (R128). -/
theorem period_labelLawful : (regrant (due (perform (grant (timers s))))).labelLawful := by
  have ht := kept_of_labelOnly h (timers_labelOnly s) timers_label (timers_lawful h.jobs).1
  have hg : (grant (timers s)).labelLawful := by
    refine kept_of_labelOnly ht (grant_labelOnly _) grant_label ?_
    exact jobsLawful_congr ht.jobs (by simp) (by simp) (by simp) fun hl => by rw [grant_head]; exact hl
  exact regrant_due_labelLawful (perform_labelLawful hg)

end

/-- Settles O56: the law in the middle of an event (`State.Table`, `State.MidLine`) is kept operation by operation, and the
end of each event gives back what a look and a settle leave. -/
theorem everyStepKeepsTheLabelLaw : Obligations.EveryStepKeepsTheLabelLaw := by
  intro s t h hstep
  rcases step_cases hstep with ⟨rest, he⟩ | rfl | rfl | rfl
  · have hq : SameLabel s { s with pending := rest } := ⟨rfl, rfl, rfl, rfl, rfl, rfl, rfl, rfl, rfl, rfl, id⟩
    exact event_labelLawful (hq.labelLawful h) he
  · exact h
  · exact regrant_due_labelLawful (takeReading_labelLawful h)
  · exact period_labelLawful h

end Sys2Proof.Machine
end

section
/-! The look and the settle, outcome by outcome (R78 to R81, R103). -/

namespace Sys2Proof.Machine

/-! ### The job to render (R79) -/

theorem toRender_front {t : JobTable} {j : Job} (hj : t.front = some j) (ha : j.isAborting = false)
    (hr : j.rendered < j.length) : t.toRender = some j := by
  have hfilter : (t.front.filter fun j => !j.isAborting && decide (j.rendered < j.length)) = some j :=
    Option.filter_eq_some_iff.mpr ⟨hj, by simp [ha, hr]⟩
  simp only [JobTable.toRender, hfilter]

/-- Behind a front job that has nothing to render, the back job alone is looked at (R79). -/
theorem toRender_behind {t : JobTable} (hf : ∀ j ∈ t.front, j.isAborting = true ∨ j.length ≤ j.rendered) :
    t.toRender = t.back.filter fun k => decide (k.rendered < k.length) := by
  have hn : (t.front.filter fun j => !j.isAborting && decide (j.rendered < j.length)) = none := by
    refine Option.filter_eq_none_iff.mpr fun j hj => ?_
    rcases hf j hj with ha | hr
    · simp [ha]
    · simp [Nat.not_lt.mpr hr]
  simp only [JobTable.toRender, hn]

/-! ### The look (R78, R80, R81) -/

/-- The commit condition: an OPEN job's commit row has reached the band's end (R80). -/
theorem commitAllows_iff (j : Job) (c : Chosen) :
    commitAllows j c = true ↔ (j.state = .opened → c.first + c.count ≤ j.commitRow) := by
  simp [commitAllows, Job.isOpen, Decidable.imp_iff_not_or]

/-- The band at the claim index can be claimed: it is FREE and not held by PROOF (R66, R74). -/
theorem claimable_iff (s : State) :
    s.claimable = true ↔ s.ring.bands[s.ring.claim]? = some none ∧ ∀ c ∈ s.port.proof, c.band ≠ s.ring.claim := by
  simp [State.claimable]

section
variable {s : State} (hw : s.renderer.work = none)
include hw

theorem look_idle (hj : s.jobs.toRender = none) : look s = { s with renderer := .idle } := by
  cases hr : s.renderer with
  | rendering w => simp [hr, Renderer.work] at hw
  | _ => simp only [look, hr, hj]

/-- A look outside RENDERING with rows to render waits for the commit row, waits for the band, or claims it (R78). -/
theorem look_toRender {j : Job} (hj : s.jobs.toRender = some j) :
    look s =
      if commitAllows j (chooseBand s.ring.h j) then
        if s.claimable then claimBand (chooseBand s.ring.h j) s
        else { s with renderer := .waitBand (chooseBand s.ring.h j) }
      else { s with renderer := .waitCommit (chooseBand s.ring.h j) } := by
  cases hr : s.renderer with
  | rendering w => simp [hr, Renderer.work] at hw
  | _ => simp only [look, hr, hj]

end

/-! ### The settle (R103) -/

theorem settledMode_none {s : State} (h : s.jobs.front = none) : s.settledMode = .idle := by
  simp only [State.settledMode, h]

theorem settledMode_some {s : State} {j : Job} (h : s.jobs.front = some j) :
    s.settledMode = if s.nextRowReady j then .armed else .waitLine := by
  simp only [State.settledMode, h]

/-- Settles O47: the look by its three conditions, the job to render by the front job's, and the settle by the line in flight. -/
theorem lookChoosesWaitsOrClaims : Obligations.LookChoosesWaitsOrClaims := by
  refine ⟨fun s hw => ⟨look_idle hw, fun j hj => ?_⟩, fun t => ⟨fun j => toRender_front, fun hf => ?_⟩, fun s => ?_⟩
  · intro count last meetsBand
    have hcommit := commitAllows_iff j (chooseBand s.ring.h j)
    rw [look_toRender hw hj]
    refine ⟨fun ho hlt => if_neg fun hc => Nat.not_le.mpr hlt (hcommit.mp hc ho), fun hc => ⟨fun hb => ?_, fun hfree hproof => ?_⟩⟩
    · have hk : ¬ s.claimable = true := by
        rw [claimable_iff]
        rintro ⟨hfree, hproof⟩
        rcases hb with hb | ⟨c, hc, hband⟩
        · exact hb hfree
        · exact hproof c hc hband
      rw [if_pos (hcommit.mpr hc), if_neg hk]
      rfl
    · rw [if_pos (hcommit.mpr hc), if_pos ((claimable_iff s).mpr ⟨hfree, hproof⟩)]
      exact ⟨_, rfl, rfl, rfl, rfl, rfl, rfl, rfl⟩
  · rw [toRender_behind hf]
    exact ⟨fun k hk hr => by simp [hk, hr], fun hk => Option.filter_eq_none_iff.mpr fun k hb => by simpa using hk k hb⟩
  · refine ⟨fun hf => ?_, fun hn => ?_, settledMode_none, fun j hj => ?_⟩
    · have hl : s.head.lineInFlight = true := by
        rw [← Bool.not_eq_false, ← flight_none_iff]
        exact Option.isSome_iff_ne_none.mp hf
      rw [settle_eq, if_pos hl]
    · rw [settle_eq, if_neg (by simp [(flight_none_iff s).mp hn])]
    · rw [settledMode_some hj, ← nextRowReady_iff]
      exact ⟨fun h => if_pos h, fun h => if_neg h⟩

end Sys2Proof.Machine
end

section
/-! WITHDRAW, its checks in order (R39). -/

namespace Sys2Proof.Machine

theorem exec_withdraw {s : State} (h : s.admits) :
    exec .withdraw s = .next (completeWith (withdrawBody s.port.params (take Config.codeWithdraw s))) :=
  congrArg _ (offer_taken h _ _)

/-- The checks of WITHDRAW in order, in the terms of the claims (R39). -/
theorem withdrawCheck_eq (ps : List Byte) (s : State) :
    withdrawCheck ps s =
      if ps.length ≠ 1 then .error .badLength
      else if 64 ≤ paramByte ps 0 then .error .badParam
      else match findPlacement s.placements (paramByte ps 0) with
        | none => .error .noSuchHandle
        | some p => if p.active then .error .tooLate else .ok (paramByte ps 0) := by
  unfold withdrawCheck
  by_cases hl : ps.length = 1
  · obtain ⟨b, rfl⟩ := List.length_eq_one_iff.mp hl
    rfl
  · rw [if_pos hl, parseByte_length hl]

/-- Settles O30: the checks in order by `withdrawCheck_eq`. -/
theorem withdrawFreesAPendingPlacement : Obligations.WithdrawFreesAPendingPlacement := by
  intro s h
  have hcheck : withdrawCheck s.port.params (take Config.codeWithdraw s) = withdrawCheck s.port.params s := rfl
  rw [exec_withdraw h]
  dsimp only
  congr 1
  simp only [withdrawBody, hcheck, withdrawCheck_eq, findPlacement]
  split
  · rfl
  split
  · rfl
  cases s.placements.find? fun p => decide (p.handle = paramByte s.port.params 0) with
  | none => rfl
  | some p =>
    dsimp only
    split <;> rfl

end Sys2Proof.Machine
end

section
/-! The parameters of PLACE for each kind: checks 2 and 3 (R33, R34, R35). -/

namespace Sys2Proof.Machine

/-! ### The parameters common to the kinds (R33, R35) -/

/-- The common part that check 3 of PLACE makes of the parameters (R33). -/
def placeCommonOf (ps : List Byte) : PlaceCommon :=
  ⟨combineOpOf (ps.getD 1 0x00), (ps.getD 1 0x00).getLsbD 4, (ps.getD 1 0x00).getLsbD 5, paramWord ps 2, paramWord ps 4,
    if paramByte ps 6 = 0 then none else some ⟨paramByte ps 6, paramWord ps 7⟩⟩

/-- Check 3 of PLACE on the fields common to the kinds (R35). -/
def judgeCommon (ps : List Byte) : Option PlaceCommon :=
  parseCommon (ps.getD 1 0x00) (ps.getD 2 0x00) (ps.getD 3 0x00) (ps.getD 4 0x00) (ps.getD 5 0x00) (ps.getD 6 0x00)
    (ps.getD 7 0x00) (ps.getD 8 0x00)

/-- The repeat part, refused with a count of 1 or with a pitch of 0 or above 4096 (R35). -/
theorem parseRepetition_eq (count pitch : Nat) :
    parseRepetition count pitch =
      if count = 1 ∨ (2 ≤ count ∧ (pitch = 0 ∨ 4096 < pitch)) then none
      else some (if count = 0 then none else some ⟨count, pitch⟩) := by
  unfold parseRepetition
  by_cases h0 : count = 0
  · rw [if_pos h0, if_pos h0, if_neg (by omega)]
  · by_cases h2 : 2 ≤ count ∧ 1 ≤ pitch ∧ pitch ≤ 4096
    · rw [if_neg h0, if_neg h0, if_pos h2, if_neg (by omega)]
    · rw [if_neg h0, if_neg h2, if_pos (by omega)]

theorem judgeCommon_eq (ps : List Byte) :
    judgeCommon ps =
      if paramByte ps 6 = 1 ∨ (2 ≤ paramByte ps 6 ∧ (paramWord ps 7 = 0 ∨ 4096 < paramWord ps 7)) then none
      else if ps.getD 1 0x00 &&& 0xCC = 0x00 ∧ paramWord ps 4 ≤ 1023 then some (placeCommonOf ps)
      else none := by
  have hpitch : le16 (ps.getD 7 0x00) (ps.getD 8 0x00) = paramWord ps 7 := rfl
  unfold judgeCommon parseCommon
  rw [hpitch, parseRepetition_eq]
  by_cases h : paramByte ps 6 = 1 ∨ (2 ≤ paramByte ps 6 ∧ (paramWord ps 7 = 0 ∨ 4096 < paramWord ps 7))
  · rw [if_pos h, if_pos h]
  · rw [if_neg h, if_neg h]
    rfl

theorem judgeCommon_bad {ps : List Byte} (h : placeCommonBad ps) : judgeCommon ps = none := by
  rw [judgeCommon_eq]
  rcases h with hflags | hleft | hrep
  · simp only [hflags, false_and, if_false, ite_self]
  · simp only [Nat.not_le.mpr hleft, and_false, if_false, ite_self]
  · exact if_pos hrep

theorem judgeCommon_good {ps : List Byte} (h : ¬ placeCommonBad ps) : judgeCommon ps = some (placeCommonOf ps) := by
  rw [judgeCommon_eq, if_neg fun hrep => h (.inr (.inr hrep)),
    if_pos ⟨not_not.mp fun hf => h (.inl hf), Nat.not_lt.mp fun hl => h (.inr (.inl hl))⟩]

/-- The parameters from a byte on begin with that byte. -/
theorem drop_eq_getD_cons {ps : List Byte} {i : Nat} (h : i < ps.length) : ps.drop i = ps.getD i 0x00 :: ps.drop (i + 1) := by
  rw [List.drop_eq_getElem_cons h, List.getD_eq_getElem _ _ h]

/-- From nine bytes on, the kind byte decides how the bytes after them are read (R33). -/
theorem parsePlace_long {ps : List Byte} (h : 9 ≤ ps.length) :
    parsePlace ps = parseBody (ps.getD 0 0x00) (judgeCommon ps) (ps.drop 9) :=
  match ps, h with
  | _ :: _ :: _ :: _ :: _ :: _ :: _ :: _ :: _ :: _, _ => rfl

theorem parsePlace_short {ps : List Byte} (h : ps.length < 9) : parsePlace ps = .error .badLength := by
  unfold parsePlace
  split
  · simp only [List.length_cons] at h
    omega
  · rfl

/-- The kind byte from its number (R178). -/
theorem kindByte_eq {ps : List Byte} {k : Byte} (h : paramByte ps 0 = k.toNat) : ps.getD 0 0x00 = k :=
  BitVec.eq_of_toNat_eq h

/-- The pitch covers the height, with a repeat part that the common check has let through (R32, R35). -/
theorem pitchCovers_iff {ps : List Byte} (h : ¬ placeCommonBad ps) (height : Nat) :
    pitchCovers (placeCommonOf ps).repetition height = true ↔ ¬ (2 ≤ paramByte ps 6 ∧ paramWord ps 7 < height) := by
  simp only [placeCommonBad, not_or] at h
  obtain ⟨-, -, hone, -⟩ := h
  simp only [placeCommonOf, pitchCovers]
  by_cases h0 : paramByte ps 6 = 0
  · simp [h0]
  · simp only [if_neg h0, decide_eq_true_eq]
    omega

/-- The extent of a BAR or an IMAGE is in range (R35). -/
theorem extentOk_iff {ps : List Byte} (h : ¬ placeCommonBad ps) (width height : Nat) :
    extentOk (placeCommonOf ps) width height = true ↔ ¬ (width < 1 ∨ 1024 < width ∨ height < 1 ∨ 4096 < height ∨
      (2 ≤ paramByte ps 6 ∧ paramWord ps 7 < height)) := by
  rw [extentOk, Bool.and_eq_true, pitchCovers_iff h, decide_eq_true_eq]
  omega

/-- The extent and the stride of an IMAGE are in range (R35). -/
theorem imageOk_iff {ps : List Byte} (h : ¬ placeCommonBad ps) (width height stride : Nat) :
    (extentOk (placeCommonOf ps) width height = true ∧ 1 ≤ stride ∧ stride ≤ 128 ∧ ceil8 width ≤ stride) ↔
      ¬ (width < 1 ∨ 1024 < width ∨ height < 1 ∨ 4096 < height ∨ (2 ≤ paramByte ps 6 ∧ paramWord ps 7 < height) ∨
        stride < 1 ∨ 128 < stride ∨ stride < (width + 7) / 8) := by
  rw [extentOk_iff h, ceil8]
  omega

/-! ### The kind part (R33, R35) -/

theorem parseBody_unknown {k : Byte} (h : k.toNat ∉ [1, 2, 3]) (common : Option PlaceCommon) (rest : List Byte) :
    parseBody k common rest = .error .badParam := by
  have hk : ∀ n ∈ [0x01, 0x02, 0x03], k ≠ n := by
    rintro n hn rfl
    fin_cases hn <;> exact h (by decide)
  simp only [parseBody, hk 0x03 (by simp), hk 0x02 (by simp), hk 0x01 (by simp), if_false]

/-- Check 3 of PLACE from the common part, the kind's own condition and the kind part (R34, R35). -/
def judged (ps : List Byte) (ok : PlaceCommon → Prop) [DecidablePred ok] (b : PlaceBody) : Except ResultCode PlaceParams :=
  match judgeCommon ps with
  | some c => if ok c then .ok ⟨c, b⟩ else .error .badParam
  | none => .error .badParam

theorem judged_bad {ps : List Byte} {ok : PlaceCommon → Prop} [DecidablePred ok]
    (h : ¬ placeCommonBad ps → ¬ ok (placeCommonOf ps)) (b : PlaceBody) : judged ps ok b = .error .badParam := by
  unfold judged
  by_cases hc : placeCommonBad ps
  · rw [judgeCommon_bad hc]
  · rw [judgeCommon_good hc]
    exact if_neg (h hc)

theorem judged_good {ps : List Byte} {ok : PlaceCommon → Prop} [DecidablePred ok] (hc : ¬ placeCommonBad ps)
    (h : ok (placeCommonOf ps)) (b : PlaceBody) : judged ps ok b = .ok ⟨placeCommonOf ps, b⟩ := by
  unfold judged
  rw [judgeCommon_good hc]
  exact if_pos h

section
variable {ps : List Byte}

/-! ### BAR -/

/-- Check 2 of a BAR (R34). -/
theorem parsePlace_bar_length (h9 : 9 ≤ ps.length) (hk : paramByte ps 0 = 3) (hl : ps.length ≠ 13) :
    parsePlace ps = .error .badLength := by
  rw [parsePlace_long h9, kindByte_eq (k := 0x03) hk]
  have hrest : (ps.drop 9).length ≠ 4 := by
    rw [List.length_drop]
    omega
  simp only [parseBody, if_true]
  split
  · rename_i hd
    exact absurd (congrArg List.length hd) hrest
  · rfl

/-- Check 3 of a BAR (R34, R35). -/
theorem parsePlace_bar (hk : paramByte ps 0 = 3) (hl : ps.length = 13) :
    parsePlace ps = judged ps (fun c => extentOk c (paramWord ps 9) (paramWord ps 11) = true)
      (.bar (paramWord ps 9) (paramWord ps 11)) := by
  have hrest : ps.drop 9 = [ps.getD 9 0x00, ps.getD 10 0x00, ps.getD 11 0x00, ps.getD 12 0x00] := by
    rw [drop_eq_getD_cons, drop_eq_getD_cons, drop_eq_getD_cons, drop_eq_getD_cons, List.drop_of_length_le] <;> omega
  rw [parsePlace_long (by omega), kindByte_eq (k := 0x03) hk, hrest]
  rfl

/-! ### IMAGE -/

/-- Check 2 of an IMAGE (R34). -/
theorem parsePlace_image_length (h9 : 9 ≤ ps.length) (hk : paramByte ps 0 = 2) (hl : ps.length ≠ 16) :
    parsePlace ps = .error .badLength := by
  rw [parsePlace_long h9, kindByte_eq (k := 0x02) hk]
  have hrest : (ps.drop 9).length ≠ 7 := by
    rw [List.length_drop]
    omega
  unfold parseBody
  rw [if_neg (by decide), if_pos rfl]
  split
  · rename_i hd
    exact absurd (congrArg List.length hd) hrest
  · rfl

/-- Check 3 of an IMAGE (R34, R35). -/
theorem parsePlace_image (hk : paramByte ps 0 = 2) (hl : ps.length = 16) :
    parsePlace ps = judged ps
      (fun c => extentOk c (paramWord ps 9) (paramWord ps 11) = true ∧ 1 ≤ paramByte ps 15 ∧ paramByte ps 15 ≤ 128 ∧
        ceil8 (paramWord ps 9) ≤ paramByte ps 15)
      (.image (paramWord ps 9) (paramWord ps 11) (paramWord ps 13) (paramByte ps 15)) := by
  have hrest : ps.drop 9 = [ps.getD 9 0x00, ps.getD 10 0x00, ps.getD 11 0x00, ps.getD 12 0x00, ps.getD 13 0x00,
      ps.getD 14 0x00, ps.getD 15 0x00] := by
    rw [drop_eq_getD_cons, drop_eq_getD_cons, drop_eq_getD_cons, drop_eq_getD_cons, drop_eq_getD_cons, drop_eq_getD_cons,
      drop_eq_getD_cons, List.drop_of_length_le] <;> omega
  rw [parsePlace_long (by omega), kindByte_eq (k := 0x02) hk, hrest]
  rfl

/-! ### GLYPHS -/

/-- Check 2 of GLYPHS: one to 32 codes (R34). -/
theorem parsePlace_glyphs_length (h9 : 9 ≤ ps.length) (hk : paramByte ps 0 = 1) (hl : ps.length < 11 ∨ 42 < ps.length) :
    parsePlace ps = .error .badLength := by
  rw [parsePlace_long h9, kindByte_eq (k := 0x01) hk]
  unfold parseBody
  rw [if_neg (by decide), if_neg (by decide), if_pos rfl]
  split
  · rename_i spacing code codes hd
    have hlen := congrArg List.length hd
    simp only [List.length_drop, List.length_cons] at hlen
    exact if_neg (by omega)
  · rfl

/-- Check 3 of GLYPHS (R34, R35). -/
theorem parsePlace_glyphs (hk : paramByte ps 0 = 1) (hmin : 11 ≤ ps.length) (hmax : ps.length ≤ 42) :
    parsePlace ps = judged ps (fun _ => paramByte ps 9 ≤ 15) (.glyphs (paramByte ps 9) (ps.drop 10)) := by
  have hcodes : (ps.drop 11).length ≤ 31 := by
    rw [List.length_drop]
    omega
  rw [parsePlace_long (by omega), kindByte_eq (k := 0x01) hk, drop_eq_getD_cons (i := 9) (by omega),
    drop_eq_getD_cons (i := 10) (by omega)]
  unfold parseBody
  rw [if_neg (by decide), if_neg (by decide), if_pos rfl]
  exact if_pos hcodes

end

end Sys2Proof.Machine
end

section
/-! PLACE, its checks in order for each kind, and the placement accepted (R29 to R37). -/

namespace Sys2Proof.Machine

/-! ### The checks in order, and the placement accepted (R34, R37) -/

theorem exec_place {s : State} (h : s.admits) :
    exec .place s = .next (completeWith (placeBody s.port.params (take Config.codePlace s))) :=
  congrArg _ (offer_taken h _ _)

theorem placeCheck_take (ps : List Byte) (code : Byte) (s : State) : placeCheck ps (take code s) = placeCheck ps s := rfl

theorem exec_place_refused {s : State} (h : s.admits) {r : ResultCode} (hc : placeCheck s.port.params s = .error r) :
    exec .place s = .next (s.answered 0x40 r []) := by
  rw [exec_place h, placeBody, placeCheck_take, hc]
  rfl

/-- Checks 2 and 3 refuse, with a job OPEN (R34). -/
theorem exec_place_unparsed {s : State} (h : s.admits) (hj : s.jobs.openJob.isSome = true) {r : ResultCode}
    (hp : parsePlace s.port.params = .error r) : exec .place s = .next (s.answered 0x40 r []) := by
  obtain ⟨j, hj⟩ := Option.isSome_iff_exists.mp hj
  refine exec_place_refused h ?_
  simp only [placeCheck, hj, hp]

/-- The record that PLACE makes of its parameters (R27, R37). -/
theorem placedRecord_eq (ps : List Byte) (j : Job) (handle : Nat) (kind : PlaceKind) (width height : Nat) :
    placedRecord ps j handle kind width height = {
      handle := handle
      job := j.tag
      kind := kind
      op := (placeCommonOf ps).op
      inverse := (placeCommonOf ps).inverse
      notify := (placeCommonOf ps).notify
      top := (placeCommonOf ps).top
      left := (placeCommonOf ps).left
      width := width
      height := height
      repetition := (placeCommonOf ps).repetition
      active := false
      lastRow := lastRowOf (placeCommonOf ps).top height j.length (placeCommonOf ps).repetition } := by
  have hbit : ∀ i, (ps.getD 1 0x00).getLsbD i = decide (paramByte ps 1 / 2 ^ i % 2 = 1) := fun i =>
    Nat.testBit_eq_decide_div_mod_eq
  have hlast : lastRowOf (paramWord ps 2) height j.length (placeCommonOf ps).repetition =
      min (paramWord ps 2 + (if paramByte ps 6 = 0 then 0 else (paramByte ps 6 - 1) * paramWord ps 7) + height - 1)
        (j.length - 1) := by
    unfold lastRowOf placeCommonOf
    by_cases h0 : paramByte ps 6 = 0
    · simp only [h0, if_true, Nat.add_zero]
    · simp only [h0, if_false]
  unfold placedRecord
  simp only [placeCommonOf, hbit] at hlast ⊢
  rw [hlast]
  rfl

theorem placed_full {s : State} (hf : freeHandle s.placements = none) (j : Job) (kind : PlaceKind) (width height : Nat) :
    placed s j kind width height = s.answered 0x40 .tableFull [] := by
  unfold freeHandle at hf
  simp only [placed, hf]

theorem placed_slot {s : State} {i : Nat} (hf : freeHandle s.placements = some i) (j : Job) (kind : PlaceKind)
    (width height : Nat) :
    let p := placedRecord s.port.params j i kind width height
    placed s j kind width height = (placeAct p s).answered 0x40 .ok p.answer := by
  unfold freeHandle at hf
  simp only [placed, hf]
  rfl

/-- PLACE from check 6 on: the kind's own checks, then the slot (R34, R37). -/
def State.placeKind (s : State) (j : Job) (p : PlaceParams) : State :=
  match placeKindCheck p s with
  | .error e => s.answered 0x40 e []
  | .ok (kind, width, height) => placed s j kind width height

/-- Checks 4 and 5 of PLACE, and what follows them (R34). -/
theorem exec_place_parsed {s : State} (h : s.admits) {j : Job} (hj : s.jobs.openJob = some j) {b : PlaceBody}
    (hp : parsePlace s.port.params = .ok ⟨placeCommonOf s.port.params, b⟩) :
    exec .place s = .next
      (if j.length ≤ paramWord s.port.params 2 then s.answered 0x40 .range []
      else if paramWord s.port.params 2 < j.commitRow then s.answered 0x40 .late []
      else s.placeKind j ⟨placeCommonOf s.port.params, b⟩) := by
  have htop : (placeCommonOf s.port.params).top = paramWord s.port.params 2 := rfl
  rw [exec_place h, placeBody, placeCheck_take]
  congr 1
  simp only [placeCheck, hj, hp, htop]
  split
  · rfl
  split
  · rfl
  unfold State.placeKind
  cases placeKindCheck ⟨placeCommonOf s.port.params, b⟩ s with
  | error e => rfl
  | ok x =>
    cases hf : freeHandle s.placements with
    | none =>
      dsimp only
      rw [placed_full hf]
      rfl
    | some i =>
      dsimp only
      rw [placed_slot hf, placedRecord_eq]
      rfl

/-- Check 3 of PLACE and the checks after it, where the kind's own condition is read from the parameters (R34). -/
theorem exec_place_judged {s : State} (h : s.admits) {j : Job} (hj : s.jobs.openJob = some j) {ok : PlaceCommon → Prop}
    [DecidablePred ok] {b : PlaceBody} (hp : parsePlace s.port.params = judged s.port.params ok b) {bad : Prop}
    (hok : ¬ placeCommonBad s.port.params → (ok (placeCommonOf s.port.params) ↔ ¬ bad)) :
    (placeCommonBad s.port.params ∨ bad → exec .place s = .next (s.answered 0x40 .badParam [])) ∧
    (¬ (placeCommonBad s.port.params ∨ bad) → exec .place s = .next
      (if j.length ≤ paramWord s.port.params 2 then s.answered 0x40 .range []
      else if paramWord s.port.params 2 < j.commitRow then s.answered 0x40 .late []
      else s.placeKind j ⟨placeCommonOf s.port.params, b⟩)) := by
  refine ⟨fun hbad => exec_place_unparsed h (Option.isSome_of_eq_some hj) ?_, fun hgood => exec_place_parsed h hj ?_⟩
  · rw [hp]
    exact judged_bad (fun hc hb => (hok hc).mp hb (hbad.resolve_left hc)) b
  · obtain ⟨hc, hg⟩ := not_or.mp hgood
    rw [hp]
    exact judged_good hc ((hok hc).mpr hg) b

/-! ### The kind's own checks (R29, R30, R34) -/

theorem placeKind_image (s : State) (j : Job) (c : PlaceCommon) (width height source stride : Nat) :
    s.placeKind j ⟨c, .image width height source stride⟩ =
      if 65536 < source + (height - 1) * stride + (width + 7) / 8 then s.answered 0x40 .range []
      else if source < s.ring.base + s.ring.n * (s.headCfg.dots / 8) * s.ring.h ∧
          s.ring.base < source + (height - 1) * stride + (width + 7) / 8 then s.answered 0x40 .zone []
      else placed s j (.image source stride) width height := by
  have hzone : ∀ lo hi, s.overlapsZone lo hi = true ↔
      lo < s.ring.base + s.ring.n * (s.headCfg.dots / 8) * s.ring.h ∧ s.ring.base < hi := fun lo hi => decide_eq_true_iff
  simp only [State.placeKind, placeKindCheck, hzone, ceil8, Config.memSize]
  split_ifs <;> rfl

theorem runHeight_eq (s : State) (codes : List Byte) :
    s.runHeight codes = (codes.map fun c => (s.glyph c).height).foldl max 0 :=
  List.foldl_map.symm

/-- The advances and a spacing after each, added up (R29). -/
theorem foldl_advances (f : Byte → Nat) (spacing : Nat) (codes : List Byte) (n : Nat) :
    codes.foldl (fun w c => w + f c + spacing) n = n + (codes.map f).sum + codes.length * spacing := by
  induction codes generalizing n with
  | nil => simp
  | cons c cs ih =>
    rw [List.foldl_cons, ih, List.map_cons, List.sum_cons, List.length_cons, Nat.succ_mul]
    omega

/-- The width of a run is the advances with a spacing between each two (R29). -/
theorem runWidth_eq (s : State) (spacing : Nat) {codes : List Byte} (h : codes ≠ []) :
    s.runWidth spacing codes = (codes.map fun c => (s.glyph c).advance).sum + (codes.length - 1) * spacing := by
  obtain ⟨c, cs, rfl⟩ := List.exists_cons_of_ne_nil h
  rw [State.runWidth, foldl_advances (fun c => (s.glyph c).advance), List.length_cons, Nat.succ_mul, Nat.succ_sub_one]
  omega

theorem placeKind_glyphs (s : State) (j : Job) (c : PlaceCommon) (spacing : Nat) (codes : List Byte) :
    s.placeKind j ⟨c, .glyphs spacing codes⟩ =
      if ∃ c ∈ codes, s.glyph c = .undefined then s.answered 0x40 .badGlyph []
      else if pitchCovers c.repetition (s.runHeight codes) then
        placed s j (.glyphs spacing codes) (s.runWidth spacing codes) (s.runHeight codes)
      else s.answered 0x40 .badParam [] := by
  have hany : (codes.any fun c => decide (s.glyph c = .undefined)) = true ↔ ∃ c ∈ codes, s.glyph c = .undefined := by
    simp only [List.any_eq_true, decide_eq_true_eq]
  simp only [State.placeKind, placeKindCheck, hany]
  split_ifs <;> rfl

/-- Settles O27: check 3 by `parsePlace_bar`, the checks after it by `exec_place_judged`. -/
theorem placeBarChecksThenAccepts : Obligations.PlaceBarChecksThenAccepts := by
  refine ⟨fun s h => ⟨fun hn => exec_place_refused h ?_, fun hj hl => exec_place_unparsed h hj (parsePlace_short hl),
    fun hj h9 hk => exec_place_unparsed h hj ?_⟩, fun s j h hj h9 hk => ⟨fun hl => ?_, fun hl => ?_⟩⟩
  · simp only [placeCheck, hn]
  · rw [parsePlace_long h9, parseBody_unknown hk]
  · exact exec_place_unparsed h (Option.isSome_of_eq_some hj) (parsePlace_bar_length h9 hk hl)
  · exact exec_place_judged h hj (parsePlace_bar hk hl) fun hc => extentOk_iff hc _ _

/-- Settles O28: check 3 by `parsePlace_image`, the footprint by `placeKind_image`. -/
theorem placeImageChecksThenAccepts : Obligations.PlaceImageChecksThenAccepts := by
  intro s j h hj h9 hk ps w hgt source stride
  refine ⟨fun hl => exec_place_unparsed h (Option.isSome_of_eq_some hj) (parsePlace_image_length h9 hk hl), fun hl => ?_⟩
  have hpost := exec_place_judged h hj (parsePlace_image hk hl) fun hc => imageOk_iff hc w hgt stride
  rwa [placeKind_image] at hpost

/-- Settles O29: check 3 by `parsePlace_glyphs`, the extent by `runWidth_eq` and `runHeight_eq`. -/
theorem placeGlyphsChecksThenAccepts : Obligations.PlaceGlyphsChecksThenAccepts := by
  intro s j h hj h9 hk ps spacing codes hgt w
  refine ⟨fun hl => exec_place_unparsed h (Option.isSome_of_eq_some hj) (parsePlace_glyphs_length h9 hk hl),
    fun hmin hmax => ?_⟩
  obtain ⟨hbad, hgood⟩ := exec_place_judged (bad := 15 < spacing) h hj (parsePlace_glyphs hk hmin hmax) fun _ => Nat.not_lt.symm
  refine ⟨hbad, fun hc => ?_⟩
  have hpitch := pitchCovers_iff (not_or.mp hc).1 hgt
  have hne : codes ≠ [] := List.ne_nil_of_length_pos (by simp only [codes, List.length_drop]; omega)
  rw [hgood hc, placeKind_glyphs, runHeight_eq, runWidth_eq s _ hne]
  rw [if_congr hpitch rfl rfl, ite_not]

end Sys2Proof.Machine
end

section
/-! What the renderer draws, dot by dot: the bytes of a row, and the source dots of the three kinds (R28 to R31, R87 to R90). -/

namespace Sys2Proof.Machine

/-! ### The dots of a byte (R125) -/

/-- A byte made of its dots has those dots. -/
theorem getMsbD_byteOfDots (d : Nat → Bool) {i : Nat} (hi : i < 8) : (byteOfDots d).getMsbD i = d i := by
  rw [byteOfDots, BitVec.getMsbD_ofBoolListBE]
  interval_cases i <;> rfl

/-- A dot of a combined byte: combined inside the drawn columns, unchanged outside them (R87). -/
theorem dotOf_combineByte (p : Placement) (laid : List Laid) (limit row : Nat) (src : List Byte) (col : Nat) (old : Byte) :
    (p.combineByte laid limit row src (col / 8) old).getMsbD (col % 8) =
      if p.left ≤ col ∧ col < limit then
        combineDot p.op (old.getMsbD (col % 8)) (p.sourceDot laid limit row src col)
      else old.getMsbD (col % 8) := by
  have hcol : 8 * (col / 8) + col % 8 = col := Nat.div_add_mod col 8
  rw [Placement.combineByte, getMsbD_byteOfDots _ (Nat.mod_lt col (by decide))]
  simp only [hcol, dotOf]

/-! ### The bytes of a row (R87) -/

/-- A run of addresses each read, changed and written back: a byte in the run is changed once, and no other byte changes. -/
theorem read_foldl_modify {m : Memory} (h : m.wf = true) (f : Nat → Byte → Byte) {a n : Nat} (hn : a + n ≤ Config.memSize)
    (x : Nat) :
    Memory.read ((List.range n).foldl (fun m j => Memory.write m (a + j) (f j (Memory.read m (a + j)))) m) x =
      if a ≤ x ∧ x < a + n then f (x - a) (m.read x) else m.read x := by
  induction n with
  | zero =>
    rw [if_neg (by omega)]
    rfl
  | succ n ih =>
    have hwf := Memory.wf_foldl_write (fun j => a + j) (fun m j => f j (Memory.read m (a + j))) (List.range n) h
    have ih := ih (by omega)
    rw [List.range_succ, List.foldl_append, List.foldl_cons, List.foldl_nil, Memory.read_write hwf (by omega)]
    by_cases hx : x = a + n
    · subst hx
      rw [if_pos rfl, ih, if_neg (by omega), if_pos (by omega), Nat.add_sub_cancel_left]
    · rw [if_neg hx, ih]
      exact if_congr (by omega) rfl rfl

/-- The source bytes that a row of a copy reads, from memory as it stands (R89, R90). -/
def Placement.sourceBytes (p : Placement) (laid : List Laid) (limit row : Nat) (m : Memory) : List Byte :=
  (p.sources laid limit row).map (Memory.read m)

section
variable {p : Placement} {limit width line : Nat} {m : Memory} (h : m.wf = true) (hlimit : limit ≤ 8 * width)
  (hleft : p.left < 8 * width) (hline : line + width ≤ Config.memSize) (laid : List Laid) (row : Nat)
include h hlimit hleft hline

/-- A row drawn from its beginning: the bytes its columns touch are combined, and no other byte changes (R87). -/
theorem read_finishRow (x : Nat) :
    (finishRow p laid limit line row [] 0 none m).read x =
      if line + p.firstByte ≤ x ∧ x < line + p.firstByte + p.byteCount limit then
        p.combineByte laid limit row (p.sourceBytes laid limit row m) (x - line) (m.read x)
      else m.read x := by
  have hrow : finishRow p laid limit line row [] 0 none m =
      (List.range (p.byteCount limit)).foldl (fun m' j => Memory.write m' (line + p.firstByte + j)
        (p.combineByte laid limit row (p.sourceBytes laid limit row m) (p.firstByte + j)
          (Memory.read m' (line + p.firstByte + j)))) m := by
    simp [finishRow, List.range_eq_range', Placement.sourceBytes]
  have hbytes : line + p.firstByte + p.byteCount limit ≤ Config.memSize := by
    simp only [Placement.firstByte, Placement.byteCount] at *
    omega
  rw [hrow, read_foldl_modify h
    (fun j => p.combineByte laid limit row (p.sourceBytes laid limit row m) (p.firstByte + j)) hbytes]
  split
  · rename_i hx
    rw [show p.firstByte + (x - (line + p.firstByte)) = x - line by omega]
  · rfl

/-- A row drawn changes no byte outside its line. -/
theorem read_finishRow_outside {x : Nat} (hx : x < line ∨ line + width ≤ x) :
    (finishRow p laid limit line row [] 0 none m).read x = m.read x := by
  rw [read_finishRow h hlimit hleft hline, if_neg]
  simp only [Placement.firstByte, Placement.byteCount]
  omega

/-- The dots of the line after a row has been drawn (R28, R87). -/
theorem memDot_finishRow (col : Nat) :
    memDot (finishRow p laid limit line row [] 0 none m) line col =
      if p.left ≤ col ∧ col < limit then
        combineDot p.op (memDot m line col) (p.sourceDot laid limit row (p.sourceBytes laid limit row m) col)
      else memDot m line col := by
  unfold memDot
  rw [read_finishRow h hlimit hleft hline, Nat.add_sub_cancel_left]
  split
  · exact dotOf_combineByte ..
  · rename_i hx
    refine (if_neg fun hc => hx ?_).symm
    simp only [Placement.firstByte, Placement.byteCount]
    omega

end

/-! ### The source dots (R28 to R31, R88 to R90) -/

/-- A dot of so many bytes read from memory is the dot of memory. -/
theorem dotIn_map_read (m : Memory) (a : Nat) {n c : Nat} (h : c / 8 < n) :
    dotIn ((List.range n).map fun i => Memory.read m (a + i)) c = memDot m a c := by
  unfold dotIn memDot dotOf
  rw [List.getD_eq_getElem _ _ (by simpa using h)]
  simp

/-- A laid glyph's dot from the bitmap bytes that its row needs (R50, R90). -/
theorem laid_dot_eq (m : Memory) (l : Laid) {limit c : Nat} (hc : c < limit) (row : Nat) :
    l.dot ((l.sources limit row).map (Memory.read m)) row c = glyphDot m l row c := by
  unfold Laid.dot glyphDot
  by_cases hin : l.x ≤ c ∧ c < l.x + l.desc.width ∧ row < l.desc.height
  swap
  · simp only [hin, decide_false, Bool.false_and, if_false]
  simp only [hin]
  cases hd : l.desc with
  | undefined => rfl
  | rom => rfl
  | ram g =>
    simp only [hd, GlyphDesc.width, GlyphDesc.height] at hin
    simp only [Laid.sources, hd, hin, if_true, List.map_map, Function.comp_def, Laid.drawnWidth, GlyphDesc.width]
    refine dotIn_map_read m _ ?_
    unfold ceil8
    omega

/-- A run's dot from the source bytes of its row (R51, R90). -/
theorem runDot_eq (m : Memory) {limit c : Nat} (hc : c < limit) (row : Nat) (laid : List Laid) :
    runDot limit row laid ((laid.flatMap fun l => l.sources limit row).map (Memory.read m)) c =
      laid.any fun l => glyphDot m l row c := by
  induction laid with
  | nil => rfl
  | cons l rest ih =>
    simp only [runDot, List.flatMap_cons, List.map_append, List.any_cons]
    rw [List.take_left' (List.length_map _), List.drop_left' (List.length_map _), laid_dot_eq m l hc, ih]

/-- The readings of a run lay its glyphs one after another (R56, R90). -/
theorem foldl_layNext (s : State) (left spacing : Nat) (codes : List Byte) (laid : List Laid) :
    codes.foldl (s.layNext left spacing) laid = laid ++ layRun s spacing (nextX left spacing laid) codes := by
  induction codes generalizing laid with
  | nil => simp [layRun]
  | cons code codes ih =>
    have hnext : nextX left spacing (s.layNext left spacing laid code) =
        nextX left spacing laid + (s.glyph code).advance + spacing := by
      simp [nextX, State.layNext]
    rw [List.foldl_cons, ih, hnext, State.layNext, List.append_assoc]
    rfl

/-- The source dot the renderer combines is the one the label asks for, on memory as it stands (R29, R30, R31). -/
theorem sourceDot_eq (s : State) (m : Memory) (p : Placement) {limit c : Nat} (row : Nat) (hc : p.left ≤ c ∧ c < limit) :
    p.sourceDot (s.layRest p []) limit row (p.sourceBytes (s.layRest p []) limit row m) c =
      xor p.inverse (sourceDot s m p row c) := by
  unfold Placement.sourceDot Placement.sourceBytes Placement.sources sourceDot
  cases hk : p.kind with
  | bar => rfl
  | image source stride =>
    simp only [List.map_map, Function.comp_def]
    rw [dotIn_map_read]
    unfold ceil8
    omega
  | glyphs spacing codes =>
    have hlaid : s.layRest p [] = layRun s spacing p.left codes := by
      simp only [State.layRest, hk, List.length_nil, List.drop_zero, foldl_layNext, List.nil_append]
      rfl
    simp only [hlaid, runDot_eq m hc.2]

end Sys2Proof.Machine
end

section
/-! A band composed from its claim holds the label (R28 to R31, R85 to R90): the picture in the band's lines after the clearing,
after each row, after each copy. -/

namespace Sys2Proof.Machine

/-! ### Sources outside the band (R30, R50, R58) -/

theorem memDot_congr {m m' : Memory} {a c : Nat} (h : m'.read (a + c / 8) = m.read (a + c / 8)) : memDot m' a c = memDot m a c := by
  rw [memDot, memDot, h]

/-- A glyph laid in a run has the descriptor of a code of the run (R56). -/
theorem layRun_desc {s : State} {spacing : Nat} {codes : List Byte} {x : Nat} {l : Laid} (hl : l ∈ layRun s spacing x codes) :
    ∃ code ∈ codes, l.desc = s.glyph code := by
  induction codes generalizing x with
  | nil => cases hl
  | cons code codes ih =>
    rcases List.mem_cons.mp hl with rfl | hl
    · exact ⟨code, List.mem_cons_self .., rfl⟩
    · obtain ⟨c, hc, hd⟩ := ih hl
      exact ⟨c, List.mem_cons_of_mem _ hc, hd⟩

section
variable {m m' : Memory} {lo hi : Nat} (hm : ∀ a, a < lo ∨ hi ≤ a → m'.read a = m.read a)
include hm

/-- The dot of a RAM glyph whose footprint lies outside some addresses does not depend on them (R50). -/
theorem glyphDot_outside {l : Laid} (hl : ∀ g, l.desc = .ram g → g.base + g.footprint ≤ lo ∨ hi ≤ g.base) (row c : Nat) :
    glyphDot m' l row c = glyphDot m l row c := by
  unfold glyphDot
  split
  swap
  · rfl
  rename_i hin
  cases hd : l.desc with
  | undefined => rfl
  | rom => rfl
  | ram g =>
    simp only [hd, GlyphDesc.width, GlyphDesc.height] at hin
    have hrow : (row + 1) * ceil8 g.width ≤ g.height * ceil8 g.width := Nat.mul_le_mul_right _ hin.2.2
    have hcol : (c - l.x) / 8 < ceil8 g.width := by
      unfold ceil8
      omega
    have hout := hl g hd
    rw [Nat.succ_mul] at hrow
    unfold RamGlyph.footprint at hout
    exact memDot_congr (hm _ (by omega))

/-- The source dots of a placement that reads outside some addresses do not depend on them (R58). -/
theorem sourceDot_outside {s : State} {p : Placement} (hout : sourcesOutside s lo hi p) {row c : Nat} (hrow : row < p.height)
    (hc : p.left ≤ c ∧ c < p.left + p.width) : sourceDot s m' p row c = sourceDot s m p row c := by
  unfold sourcesOutside at hout
  unfold sourceDot
  cases hk : p.kind with
  | bar => rfl
  | image source stride =>
    simp only [hk] at hout
    have hlast : row * stride ≤ (p.height - 1) * stride := Nat.mul_le_mul_right _ (by omega)
    have hcol : (c - p.left) / 8 < ceil8 p.width := by
      unfold ceil8
      omega
    exact memDot_congr (hm _ (by omega))
  | glyphs spacing codes =>
    simp only [hk] at hout
    rw [Bool.eq_iff_iff, List.any_eq_true, List.any_eq_true]
    refine exists_congr fun l => and_congr_right fun hl => ?_
    obtain ⟨code, hcode, hd⟩ := layRun_desc hl
    rw [glyphDot_outside hm fun g hg => hout code hcode g (hd ▸ hg)]

end

/-! ### The lines of a band (R60) -/

section
variable (s : State) (w : Work)

/-- A line of the band lies inside the band. -/
theorem line_in_band {row : Nat} (hrow : row < w.first + w.count) (hfirst : w.first ≤ row) :
    s.bandAddr w.band ≤ s.lineAddr w.band w.first row ∧
      s.lineAddr w.band w.first row + s.headCfg.lineBytes ≤ s.bandAddr w.band + w.lineBytes s := by
  have h : (row - w.first + 1) * s.headCfg.lineBytes ≤ w.count * s.headCfg.lineBytes := Nat.mul_le_mul_right _ (by omega)
  rw [Nat.succ_mul] at h
  unfold State.lineAddr Work.lineBytes
  omega

/-- The line of a row lies before the line of a row below it. -/
theorem lines_apart {row row' : Nat} (h : row < row') (hfirst : w.first ≤ row) :
    s.lineAddr w.band w.first row + s.headCfg.lineBytes ≤ s.lineAddr w.band w.first row' := by
  have h : (row - w.first + 1) * s.headCfg.lineBytes ≤ (row' - w.first) * s.headCfg.lineBytes :=
    Nat.mul_le_mul_right _ (by omega)
  rw [Nat.succ_mul] at h
  unfold State.lineAddr
  omega

/-! ### The picture in a band -/

/-- Memory holds a picture in the lines of the band in work, dot by dot, and is another memory elsewhere. -/
structure Pictured (before : Memory) (picture : Nat → Nat → Bool) (m : Memory) : Prop where
  wf : m.wf = true
  dots : ∀ row col, w.first ≤ row → row < w.first + w.count → col < s.headCfg.dots →
    memDot m (s.lineAddr w.band w.first row) col = picture row col
  outside : ∀ a, a < s.bandAddr w.band ∨ s.bandAddr w.band + w.lineBytes s ≤ a → m.read a = before.read a

end

section
variable {s : State} {w : Work} (h8 : s.headCfg.dots % 8 = 0)
  (hin : s.bandAddr w.band + w.lineBytes s ≤ Config.memSize) {before : Memory} {picture : Nat → Nat → Bool} {m : Memory}

/-- Two pictures that agree on the dots of the band are held alike. -/
theorem Pictured.congr {picture' : Nat → Nat → Bool} (h : Pictured s w before picture m)
    (he : ∀ row col, w.first ≤ row → row < w.first + w.count → col < s.headCfg.dots → picture' row col = picture row col) :
    Pictured s w before picture' m :=
  ⟨h.wf, fun row col h1 h2 h3 => (h.dots row col h1 h2 h3).trans (he row col h1 h2 h3).symm, h.outside⟩

include h8 in
/-- The byte that holds a dot lies in the dot's line. -/
theorem dot_in_line {col : Nat} (hcol : col < s.headCfg.dots) : col / 8 < s.headCfg.lineBytes := by
  unfold HeadConfig.lineBytes
  omega

include h8 hin

/-- The clearing phase leaves a blank picture (R85). -/
theorem cleared_pictured (hwf : before.wf = true) :
    Pictured s w before (fun _ _ => false) (Memory.clearRange before (s.bandAddr w.band) (w.lineBytes s)) where
  wf := Memory.wf_clearRange hwf _ _
  dots row col hfirst hlast hcol := by
    have hbyte := dot_in_line h8 hcol
    obtain ⟨hlo, hhi⟩ := line_in_band s w hlast hfirst
    rw [memDot, Memory.read_clearRange hwf hin, if_pos (by omega)]
    simp
  outside a ha := by rw [Memory.read_clearRange hwf hin, if_neg (by omega)]

section
variable {p : Placement} (hleft : p.left < s.headCfg.dots)
  (hout : sourcesOutside s (s.bandAddr w.band) (s.bandAddr w.band + w.lineBytes s) p) (k : Nat)
include hleft hout

/-- One row of a copy drawn draws the dots of that row (R28, R87). -/
theorem Pictured.row (h : Pictured s w before picture m) {row : Nat} (hrow : w.firstRow p k ≤ row ∧ row < w.endRow p k) :
    Pictured s w before (fun r c => if r = row then drawDot s before r c p k (picture r c) else picture r c)
      (finishRow p (s.layRest p []) (p.limit s.headCfg.dots) (s.lineAddr w.band w.first row) (row - p.copyTop k) [] 0 none m) := by
  simp only [Work.firstRow, Work.endRow] at hrow
  have hdots : s.headCfg.dots = 8 * s.headCfg.lineBytes := by
    unfold HeadConfig.lineBytes
    omega
  obtain ⟨hlo, hhi⟩ := line_in_band s w (row := row) (by omega) (by omega)
  have hlimit : p.limit s.headCfg.dots ≤ 8 * s.headCfg.lineBytes := hdots ▸ Nat.min_le_right ..
  have hwidth : p.left < 8 * s.headCfg.lineBytes := hdots ▸ hleft
  have hline : s.lineAddr w.band w.first row + s.headCfg.lineBytes ≤ Config.memSize := hhi.trans hin
  refine ⟨wf_finishRow _ _ _ _ _ _ _ _ h.wf, fun r c hfirst hlast hc => ?_, fun a ha => ?_⟩
  · split
    · rename_i heq
      subst heq
      rw [memDot_finishRow h.wf hlimit hwidth hline, h.dots r c hfirst hlast hc]
      unfold drawDot
      have hcond : (p.left ≤ c ∧ c < p.limit s.headCfg.dots) ↔
          (p.copyTop k ≤ r ∧ r < p.copyTop k + p.height ∧ p.left ≤ c ∧ c < p.left + p.width) := by
        simp only [Placement.limit]
        omega
      by_cases hdraw : p.left ≤ c ∧ c < p.limit s.headCfg.dots
      · obtain ⟨-, hbottom, hcols⟩ := hcond.mp hdraw
        rw [if_pos hdraw, if_pos (hcond.mp hdraw), sourceDot_eq s m p _ hdraw,
          sourceDot_outside h.outside hout (by omega) hcols]
      · rw [if_neg hdraw, if_neg (mt hcond.mpr hdraw)]
    · rename_i hne
      rw [← h.dots r c hfirst hlast hc]
      have hbyte := dot_in_line h8 hc
      refine memDot_congr (read_finishRow_outside h.wf hlimit hwidth hline _ _ ?_)
      rcases Nat.lt_or_gt_of_ne hne with hlt | hlt
      · have := lines_apart s w hlt hfirst
        omega
      · have := lines_apart s w hlt (by omega)
        omega
  · rw [read_finishRow_outside h.wf hlimit hwidth hline _ _ (by omega)]
    exact h.outside a ha

/-- The rows of a copy from one on draw the dots of the copy in those rows (R86). -/
theorem Pictured.rows (h : Pictured s w before picture m) {row : Nat} (hrow : w.firstRow p k ≤ row) :
    Pictured s w before (fun r c => if row ≤ r then drawDot s before r c p k (picture r c) else picture r c)
      (finishRows s w p k (s.layRest p []) row m) := by
  induction hn : w.endRow p k - row generalizing row m picture with
  | zero =>
    rw [finishRows_end s w p k _ m (by omega)]
    refine h.congr fun r c _ hlast _ => ?_
    split
    · rename_i hle
      unfold drawDot
      refine if_neg fun hc => ?_
      simp only [Work.endRow] at hn
      omega
    · rfl
  | succ n ih =>
    rw [finishRows_step s w p k _ m (by omega)]
    refine (ih (h.row h8 hin hleft hout k ⟨hrow, by omega⟩) (row := row + 1) (by omega) (by omega)).congr fun r c _ _ _ => ?_
    rcases Nat.lt_trichotomy r row with hlt | rfl | hgt
    · rw [if_neg (by omega), if_neg (by omega), if_neg (by omega)]
    · rw [if_pos (Nat.le_refl r), if_neg (by omega), if_pos rfl]
    · rw [if_pos (by omega), if_pos (by omega), if_neg (by omega)]

/-- A copy drawn draws its dots (R86). -/
theorem Pictured.copy (h : Pictured s w before picture m) :
    Pictured s w before (fun r c => drawDot s before r c p k (picture r c))
      (finishRows s w p k (s.layRest p []) (w.firstRow p k) m) := by
  refine (h.rows h8 hin hleft hout k (Nat.le_refl _)).congr fun r c hfirst _ _ => ?_
  split
  · rfl
  · rename_i hlt
    unfold drawDot
    refine if_neg fun hc => hlt ?_
    simp only [Work.firstRow]
    omega

end

/-- The dot of a picture after the copy of a reference has been drawn. -/
def copyDot (s : State) (before : Memory) (r c : Nat) (d : Bool) (x : CopyRef) : Bool :=
  match findPlacement s.placements x.handle with
  | none => d
  | some p => drawDot s before r c p x.copy d

/-- The copies of a list drawn one after another draw their dots one after another (R86). -/
theorem Pictured.copies {todo : List CopyRef}
    (htodo : ∀ x ∈ todo, ∀ p, findPlacement s.placements x.handle = some p → p.left < s.headCfg.dots ∧
      sourcesOutside s (s.bandAddr w.band) (s.bandAddr w.band + w.lineBytes s) p)
    (h : Pictured s w before picture m) :
    Pictured s w before (fun r c => todo.foldl (copyDot s before r c) (picture r c)) (finishCopies s w todo m) := by
  induction todo generalizing m picture with
  | nil => exact h
  | cons x todo ih =>
    have ih := fun {m picture} => ih (m := m) (picture := picture) fun y hy => htodo y (List.mem_cons_of_mem _ hy)
    cases hx : findPlacement s.placements x.handle with
    | none =>
      have hskip : finishCopies s w (x :: todo) m = finishCopies s w todo m := by
        simp only [finishCopies, List.foldl_cons, hx]
      rw [hskip]
      exact (ih h).congr fun r c _ _ _ => by simp only [List.foldl_cons, copyDot, hx]
    | some p =>
      obtain ⟨hleft, hout⟩ := htodo x (List.mem_cons_self ..) p hx
      rw [finishCopies_cons hx]
      refine (ih (h.copy h8 hin hleft hout x.copy)).congr fun r c _ _ _ => ?_
      simp only [List.foldl_cons, copyDot, hx]

end

end Sys2Proof.Machine
end

section
/-! The copies that a claim lists draw the label of the job (R41, R84, R86). -/

namespace Sys2Proof.Machine

/-! ### The claim and the dots of a placement -/

/-- A run is laid from the glyph store alone. -/
theorem layRun_congr {s t : State} (h : t.glyphs = s.glyphs) (spacing x : Nat) (codes : List Byte) :
    layRun t spacing x codes = layRun s spacing x codes := by
  have hglyph : ∀ code, t.glyph code = s.glyph code := fun code => by rw [State.glyph, State.glyph, h]
  induction codes generalizing x with
  | nil => rfl
  | cons code codes ih => rw [layRun, layRun, hglyph, ih]

section
variable (s : State) (c : Chosen) (m : Memory) (row col : Nat) (p : Placement) (k : Nat) (d : Bool)

/-- A placement becoming ACTIVE by a claim draws the dots it drew before. -/
theorem drawDot_claim :
    drawDot (claimBand c s) m row col { p with active := true } k d = drawDot s m row col p k d := by
  have hsource : ∀ r, sourceDot (claimBand c s) m { p with active := true } r col = sourceDot s m p r col := fun r => by
    simp only [sourceDot, layRun_congr (claimBand_glyphs s c)]
  simp only [drawDot, hsource]
  rfl

variable {s m row col p k d}

/-- A copy that meets no row of the band draws no dot in it. -/
theorem drawDot_of_not_meets {first last : Nat} (hrow : first ≤ row ∧ row < last) (h : p.copyMeets first last k = false) :
    drawDot s m row col p k d = d := by
  simp only [Placement.copyMeets, decide_eq_false_iff_not] at h
  exact if_neg (by omega)

/-- A placement to the right of the column draws no dot there. -/
theorem drawDot_of_left (h : col < p.left) : drawDot s m row col p k d = d := if_neg (by omega)

end

/-- A band about to be cleared is composed by the clearing and then the copies to draw (R85, R86). -/
theorem composeRest_clearing {s : State} {w : Work} (h : w.cursor = .clearing (w.lineBytes s)) :
    composeRest s w = finishCopies s w w.todo (Memory.clearRange s.mem (s.bandAddr w.band) (w.lineBytes s)) := by
  simp only [composeRest, h, Nat.sub_self, Nat.add_zero]

section
variable {s : State} (hd : s.placements.Pairwise fun p q => p.handle ≠ q.handle) {c : Chosen}
include hd

/-- The claim finds a placement of its draw list by its handle, ACTIVE (R23, R84). -/
theorem findPlacement_claim {p : Placement} (hp : p ∈ s.placements) (hin : inDrawList c p = true) :
    findPlacement (claimBand c s).placements p.handle = some { p with active := true } := by
  have hhandle : ∀ q : Placement, (if inDrawList c q then { q with active := true } else q).handle = q.handle := fun q => by
    split <;> rfl
  rw [claimBand_placements, findPlacement_map hhandle, findPlacement_mem hd hp]
  simp [hin]

/-- The placements that a claim lists begin left of the head's last column and read what they read before it (R58, R86). -/
theorem claimed_sources {lo hi : Nat} (hout : ∀ p ∈ s.placements, p.job = c.job → sourcesOutside s lo hi p) {x : CopyRef}
    (hx : x ∈ (s.placements.filter (inDrawList c)).flatMap fun p =>
      p.drawnCopies s.headCfg.dots c.first (c.first + c.count)) {p : Placement}
    (hp : findPlacement (claimBand c s).placements x.handle = some p) :
    p.left < s.headCfg.dots ∧ sourcesOutside (claimBand c s) lo hi p := by
  obtain ⟨q, hq, hxq⟩ := List.mem_flatMap.mp hx
  obtain ⟨hqs, hin⟩ := List.mem_filter.mp hq
  unfold Placement.drawnCopies at hxq
  split at hxq
  swap
  · cases hxq
  rename_i hleft
  obtain ⟨k, -, rfl⟩ := List.mem_map.mp hxq
  rw [findPlacement_claim hd hqs hin] at hp
  obtain rfl := Option.some.inj hp
  simp only [inDrawList, Bool.and_eq_true, decide_eq_true_eq] at hin
  exact ⟨hleft, hout q hqs hin.1⟩

section
variable (m : Memory) {row col : Nat} (hrow : c.first ≤ row ∧ row < c.first + c.count) (hcol : col < s.headCfg.dots)
include hrow hcol

/-- The copies of a placement that a claim lists draw what all its copies draw (R86). -/
theorem foldl_drawnCopies {p : Placement} (hp : p ∈ s.placements) (hin : inDrawList c p = true) (d : Bool) :
    (p.drawnCopies s.headCfg.dots c.first (c.first + c.count)).foldl (copyDot (claimBand c s) m row col) d =
      (List.range p.copies).foldl (fun d k => drawDot s m row col p k d) d := by
  unfold Placement.drawnCopies
  split
  · rw [List.foldl_map, List.foldl_filter]
    refine List.foldl_ext _ _ _ fun d k _ => ?_
    have hcopy : copyDot (claimBand c s) m row col d ⟨p.handle, k⟩ = drawDot s m row col p k d := by
      simp only [copyDot, findPlacement_claim hd hp hin, drawDot_claim]
    rw [hcopy]
    split
    · rfl
    · rename_i hm
      exact (drawDot_of_not_meets hrow (Bool.not_eq_true _ ▸ hm)).symm
  · rename_i hleft
    exact (List.foldl_fixed' (fun k => drawDot_of_left (by omega)) _).symm

/-- The copies that a claim lists draw the label of its job over a blank band (R41, R85, R86). -/
theorem foldl_claimed :
    ((s.placements.filter (inDrawList c)).flatMap fun p =>
        p.drawnCopies s.headCfg.dots c.first (c.first + c.count)).foldl (copyDot (claimBand c s) m row col) false =
      labelDot s m c.job row col := by
  rw [labelDot, List.foldl_flatMap, List.foldl_filter, List.foldl_filter]
  refine List.foldl_ext _ _ _ fun d p hp => ?_
  by_cases hjob : p.job = c.job
  swap
  · simp [inDrawList, hjob]
  by_cases hin : inDrawList c p = true
  · rw [if_pos hin, if_pos (decide_eq_true hjob), foldl_drawnCopies hd m hrow hcol hp hin]
  · have hmeets : ∀ k ∈ List.range p.copies, p.copyMeets c.first (c.first + c.count) k = false := by
      simpa [inDrawList, hjob, Placement.meets] using hin
    rw [if_neg hin, if_pos (decide_eq_true hjob),
      List.foldl_ext _ (fun d _ => d) d fun d k hk => drawDot_of_not_meets hrow (hmeets k hk)]
    exact (List.foldl_fixed _).symm

end

/-- A band claimed and composed holds the label of its job over what memory held elsewhere (R85, R86). -/
theorem composeRest_claimed (hwf : s.mem.wf = true) (h8 : s.headCfg.dots % 8 = 0) {w : Work}
    (hw : (claimBand c s).renderer = .rendering w)
    (hend : (claimBand c s).bandAddr w.band + w.lineBytes (claimBand c s) ≤ Config.memSize)
    (hout : ∀ p ∈ s.placements, p.job = c.job →
      sourcesOutside s ((claimBand c s).bandAddr w.band) ((claimBand c s).bandAddr w.band + w.lineBytes (claimBand c s)) p) :
    Pictured (claimBand c s) w s.mem (labelDot s s.mem c.job) (composeRest (claimBand c s) w) := by
  obtain rfl := Renderer.rendering.inj hw
  have hclear := cleared_pictured (s := claimBand c s) h8 hend hwf
  have hcopies := Pictured.copies (s := claimBand c s) h8 hend (fun _ hx _ hp => claimed_sources hd hout hx hp) hclear
  rw [composeRest_clearing rfl]
  exact hcopies.congr fun row col hfirst hlast hcol => (foldl_claimed hd s.mem ⟨hfirst, hlast⟩ hcol).symm

end

/-- Settles O49: `composeRest_claimed`, from the picture after the clearing (`cleared_pictured`) and after each copy
(`Pictured.copies`). -/
theorem composedBandHoldsTheLabel : Obligations.ComposedBandHoldsTheLabel := by
  intro s w c bandStart bandEnd hwf h8 _ _ hend hd hout hw m
  obtain rfl := Renderer.rendering.inj hw
  have hlabel := composeRest_claimed hd hwf h8 rfl hend hout
  exact ⟨hlabel.dots, hlabel.outside⟩

end Sys2Proof.Machine
end

section
/-! The glyph store: DEFINE_GLYPH and RESTORE_GLYPH, and what every reading of a descriptor finds after them (R52 to R54). -/

namespace Sys2Proof.Machine

/-! ### A reading after a descriptor is set or unset (R47, R53, R54) -/

theorem findGlyph_setGlyph (es : List GlyphEntry) (e : GlyphEntry) (c : Byte) :
    findGlyph (setGlyph es e) c = if c = e.code then some e.glyph else findGlyph es c := by
  induction es with
  | nil => simp only [setGlyph, findGlyph, eq_comm]
  | cons f fs ih =>
    unfold setGlyph
    split
    · simp only [findGlyph, eq_comm]
    · split
      · rename_i hcode
        by_cases hc : c = e.code
        · simp only [findGlyph, hc, if_true]
        · simp only [findGlyph, ← hcode, if_neg (Ne.symm hc), if_neg hc]
      · rename_i hcode
        rw [findGlyph, findGlyph, ih]
        by_cases hc : c = e.code
        · rw [if_pos hc, if_pos hc, if_neg (hc ▸ Ne.symm hcode)]
        · rw [if_neg hc, if_neg hc]

theorem findGlyph_unsetGlyph (es : List GlyphEntry) (code c : Byte) :
    findGlyph (unsetGlyph es code) c = if c = code then none else findGlyph es c := by
  induction es with
  | nil => exact (ite_self _).symm
  | cons f fs ih =>
    unfold unsetGlyph at ih ⊢
    by_cases hcode : f.code = code
    · rw [List.filter_cons_of_neg (by simpa using hcode), ih]
      by_cases hc : c = code
      · rw [if_pos hc, if_pos hc]
      · rw [if_neg hc, if_neg hc, findGlyph, if_neg (hcode ▸ Ne.symm hc)]
    · rw [List.filter_cons_of_pos (by simpa using hcode), findGlyph, findGlyph, ih]
      by_cases hc : c = code
      · rw [if_pos hc, if_pos hc, if_neg (hc ▸ hcode)]
      · rw [if_neg hc, if_neg hc]

/-- A descriptor set is the one that its code reads, and no other code reads another than before (R53). -/
theorem glyph_defineGlyphAct (e : GlyphEntry) (s : State) (c : Byte) :
    (defineGlyphAct e s).glyph c = if c = e.code then .ram e.glyph else s.glyph c := by
  simp only [State.glyph, defineGlyphAct, findGlyph_setGlyph]
  by_cases hc : c = e.code
  · simp only [if_pos hc]
  · simp only [if_neg hc]

/-- A descriptor given back reads as at power-on, and no other code reads another than before (R54). -/
theorem glyph_restoreGlyphAct (code : Byte) (s : State) (c : Byte) :
    (restoreGlyphAct code s).glyph c = if c = code then defaultGlyph c else s.glyph c := by
  simp only [State.glyph, restoreGlyphAct, findGlyph_unsetGlyph]
  by_cases hc : c = code
  · simp only [if_pos hc]
  · simp only [if_neg hc]

/-! ### The checks of DEFINE_GLYPH (R52) -/

/-- Check 1 of DEFINE_GLYPH (R52). -/
theorem parseGlyph_length {ps : List Byte} (h : ps.length ≠ 6) : parseGlyph ps = .error .badLength := by
  match ps, h with
  | [], _ | [_], _ | [_, _], _ | [_, _, _], _ | [_, _, _, _], _ | [_, _, _, _, _], _ => rfl
  | _ :: _ :: _ :: _ :: _ :: _ :: _ :: _, _ => rfl

/-- The entry that DEFINE_GLYPH makes of its parameters (R52, R178). -/
abbrev glyphRecord (ps : List Byte) : GlyphEntry :=
  ⟨ps.getD 0 0x00, ⟨paramByte ps 1, paramByte ps 2, paramByte ps 3, paramWord ps 4⟩⟩

/-- A RAM descriptor's width, height or advance is out of range (R52). -/
abbrev RamGlyph.OutOfRange (g : RamGlyph) : Prop :=
  g.width < 1 ∨ 32 < g.width ∨ g.height < 1 ∨ 64 < g.height ∨ g.advance < 1 ∨ 40 < g.advance

/-- Check 2 of DEFINE_GLYPH (R52). -/
theorem parseGlyph_six {ps : List Byte} (h : ps.length = 6) :
    parseGlyph ps = if (glyphRecord ps).glyph.OutOfRange then .error .badParam else .ok (glyphRecord ps) := by
  match ps, h with
  | [code, w, ht, adv, b0, b1], _ =>
    have hrange : (1 ≤ w.toNat ∧ w.toNat ≤ 32 ∧ 1 ≤ ht.toNat ∧ ht.toNat ≤ 64 ∧ 1 ≤ adv.toNat ∧ adv.toNat ≤ 40) ↔
        ¬ (glyphRecord [code, w, ht, adv, b0, b1]).glyph.OutOfRange := by
      simp only [RamGlyph.OutOfRange, not_or, Nat.not_lt]
      rfl
    rw [← ite_not]
    exact if_congr hrange rfl rfl

/-- A span overlaps the band zone, in the terms of the claims (R60, R61). -/
theorem overlapsZone_iff (s : State) (lo hi : Nat) :
    s.overlapsZone lo hi = true ↔ lo < s.ring.base + s.ring.n * (s.headCfg.dots / 8) * s.ring.h ∧ s.ring.base < hi :=
  decide_eq_true_iff

/-- The checks of DEFINE_GLYPH in order, in the terms of the claims (R52). -/
theorem defineGlyphCheck_eq (ps : List Byte) (s : State) :
    let g := (glyphRecord ps).glyph
    defineGlyphCheck ps s =
      if ps.length ≠ 6 then .error .badLength
      else if g.OutOfRange then .error .badParam
      else if 65536 < g.base + g.footprint then .error .range
      else if g.base < s.ring.base + s.ring.n * (s.headCfg.dots / 8) * s.ring.h ∧ s.ring.base < g.base + g.footprint then
        .error .zone
      else .ok (glyphRecord ps) := by
  intro g
  unfold defineGlyphCheck
  by_cases hl : ps.length = 6
  swap
  · rw [if_pos hl, parseGlyph_length hl]
  rw [if_neg (not_not.mpr hl), parseGlyph_six hl]
  by_cases hr : g.OutOfRange
  · rw [if_pos hr, if_pos hr]
  · rw [if_neg hr, if_neg hr]
    simp only [overlapsZone_iff]
    rfl

/-! ### The two commands -/

/-- A check that refuses answers its code, and the checks after it decide otherwise (R168). -/
theorem completeWith_checked_ite {α : Type} {c : Prop} [Decidable c] (r : ResultCode) (rest : Except ResultCode α)
    (act : α → State × Option Reply) (code : Byte) (s : State) :
    completeWith (checked (if c then .error r else rest) act (take code s)) =
      if c then s.answered code r [] else completeWith (checked rest act (take code s)) := by
  split <;> rfl

theorem exec_defineGlyph {s : State} (h : s.admits) :
    exec .defineGlyph s = .next (completeWith (defineGlyphBody s.port.params (take Config.codeDefineGlyph s))) :=
  congrArg _ (offer_taken h _ _)
theorem exec_restoreGlyph {s : State} (h : s.admits) :
    exec .restoreGlyph s = .next (completeWith (restoreGlyphBody s.port.params (take Config.codeRestoreGlyph s))) :=
  congrArg _ (offer_taken h _ _)

/-- Settles O19: the checks in order by `defineGlyphCheck_eq`, every reading of a descriptor by `glyph_defineGlyphAct`. -/
theorem defineGlyphChecksThenDefines : Obligations.DefineGlyphChecksThenDefines := by
  intro s h ps g last
  refine ⟨setGlyph s.glyphs (glyphRecord ps), glyph_defineGlyphAct (glyphRecord ps) s, ?_⟩
  rw [exec_defineGlyph h]
  simp only [defineGlyphBody, defineGlyphCheck_eq, completeWith_checked_ite]
  rfl

/-- Settles O20: every reading of a descriptor by `glyph_restoreGlyphAct`. -/
theorem restoreGlyphGivesThePowerOnDescriptor : Obligations.RestoreGlyphGivesThePowerOnDescriptor := by
  intro s h
  dsimp only
  refine ⟨unsetGlyph s.glyphs (s.port.params.getD 0 0x00), glyph_restoreGlyphAct (s.port.params.getD 0 0x00) s, ?_⟩
  rw [exec_restoreGlyph h, restoreGlyphBody]
  by_cases hl : s.port.params.length = 1
  · obtain ⟨code, hps⟩ := List.length_eq_one_iff.mp hl
    rw [if_neg (not_not.mpr hl), hps]
    rfl
  · rw [if_pos hl, parseByte_length hl]
    rfl

end Sys2Proof.Machine
end

section
/-! The end of the power-on clear, by the row and by the internal step (R49, R133). -/

namespace Sys2Proof.Machine

/-! ### The clear's own write, and the end -/

/-- The clear's own write performed moves the clear on to the next address (R133). -/
theorem perform_clearing {s : State} {a : Nat} (hp : s.phase = .clearing a)
    (ha : s.arbiter.inProgress = some ⟨.rotating .port, a, some 0x00, true⟩) :
    perform s = { s with
      phase := .clearing (a + 1)
      mem := Memory.write s.mem a 0x00
      arbiter := { s.arbiter with inProgress := none } } := by
  simp only [perform, ha, State.land, progress, hp, if_true]

/-- The write at an address and then the clearing from the next address on is the clearing from that address on (R133). -/
theorem Memory.read_clearFrom_write {m : Memory} (h : m.wf = true) {a : Nat} (ha : a < Config.memSize) (x : Nat) :
    (Memory.clearFrom (Memory.write m a 0x00) (a + 1)).read x = (Memory.clearFrom m a).read x := by
  rw [Memory.read_clearFrom, Memory.read_clearFrom, Memory.read_write h ha]
  rcases Nat.lt_trichotomy x a with hx | rfl | hx
  · rw [if_pos (by omega), if_neg (by omega), if_pos hx]
  · rw [if_pos (by omega), if_pos rfl, if_neg (by omega)]
  · rw [if_neg (by omega), if_neg (by omega)]

/-- The row performs the access in progress and then what is left of the clear (R133). -/
theorem exec_powerOnClearComplete {s : State} {a : Nat} (hp : s.phase = .clearing a) (hin : s.accessInside = true) :
    exec .powerOnClearComplete s = .next (finishClear (perform s)) := by
  simp only [exec, execPowerOnClearComplete, hp, hin, if_true]

theorem finishClear_clearing {s : State} {a : Nat} (hp : s.phase = .clearing a) :
    finishClear s = (endClear a s).restServed (decide (a < Config.memSize)) .port := by
  simp only [finishClear, hp]

/-- The row with no access in progress writes the rest of the clear (R133). -/
theorem exec_powerOnClearComplete_quiet {s : State} {a : Nat} (hp : s.phase = .clearing a) (hq : s.quiet) :
    exec .powerOnClearComplete s = .next ((endClear a s).restServed (decide (a < Config.memSize)) .port) := by
  rw [exec_powerOnClearComplete hp (by simp only [State.accessInside, hq]), perform_quiet hq, finishClear_clearing hp]

/-- The row with the clear's own write in progress performs that write and the rest of the clear (R133). -/
theorem exec_powerOnClearComplete_writing {s : State} {a : Nat} (hp : s.phase = .clearing a) (ha : a < Config.memSize)
    (hacc : s.arbiter.inProgress = some ⟨.rotating .port, a, some 0x00, true⟩) :
    exec .powerOnClearComplete s =
      .next ((endClear (a + 1) (perform s)).restServed (decide (a + 1 < Config.memSize)) .port) := by
  have hin : s.accessInside = true := by simpa only [State.accessInside, hacc, decide_eq_true_eq] using ha
  rw [exec_powerOnClearComplete hp hin, finishClear_clearing (by rw [perform_clearing hp hacc])]

/-! ### The internal step -/

/-- With no line in flight no phase counts its periods. -/
theorem timers_of_flight_none {s : State} (h : s.head.mode.flight = none) : timers s = s := by
  cases hm : s.head.mode with
  | inFlight phase line => simp [hm, HeadMode.flight] at h
  | _ => simp only [timers, hm]

/-- With no line in flight no fetch ends. -/
theorem dueFetch_of_flight_none {s : State} (h : s.head.mode.flight = none) : dueFetch s = s :=
  dueFetch_going fun line hm => by simp [hm, HeadMode.flight] at h

/-- The internal step with an access in progress and no line in flight performs the access, takes the ends that it brings
about, and grants the next one (R130, log entry 13). -/
theorem step_of_access {s : State} (hq : s.pending = []) (hp : s.phase ≠ .held) (hr : s.atReading = false)
    (hf : s.head.mode.flight = none) {a : Access} (ha : s.arbiter.inProgress = some a) (hin : a.addr < Config.memSize) :
    step s = .next (regrant (due (perform s))) := by
  have hgrant : grant (timers s) = s := by rw [timers_of_flight_none hf, grant, ha]
  have hinside : s.accessInside = true := by simpa only [State.accessInside, ha, decide_eq_true_eq] using hin
  simp only [step, hq, tick, hp, hr, hgrant, hinside, if_true, if_false, Bool.false_eq_true]

/-- The end of the clear is the one end that is due once the clear has passed the last address, when no other operation is
under way (R133). -/
theorem due_endClear {s : State} {a : Nat} (hp : s.phase = .clearing a) (ha : Config.memSize ≤ a) (hc : s.composed = false)
    (hf : s.head.mode.flight = none) (hproof : s.port.proof = none) : due s = endClear a s := by
  have hclear : dueClear s = endClear a s := by simp only [dueClear, hp, ha, if_true]
  have hfetch : dueFetch (endClear a s) = endClear a s := dueFetch_of_flight_none hf
  have hband : dueBand (endClear a s) = endClear a s := by
    rw [dueBand, show (endClear a s).composed = false from hc, if_neg Bool.false_ne_true]
  have hcopy : dueProof (endClear a s) = endClear a s := dueProof_going fun c hm => by
    rw [show (endClear a s).port.proof = none from hproof] at hm
    cases hm
  rw [due, hclear, hfetch, hband, hcopy]

/-- Settles O34: the row by `exec_powerOnClearComplete_quiet` and `exec_powerOnClearComplete_writing`, the internal step by
`step_of_access` and `due_endClear`. -/
theorem powerOnClearEndsReady : Obligations.PowerOnClearEndsReady := by
  refine ⟨fun s a hp h => ?_, fun s hq hp hr hc hf hproof hacc => ?_⟩
  · rcases h with hquiet | ⟨ha, hwf, harb⟩
    · refine ⟨Memory.clearFrom s.mem a, ?_, fun x hx => ?_, fun x hx => ?_⟩
      · rw [exec_powerOnClearComplete_quiet hp hquiet]
        simp only [endClear, State.restServed, hquiet, decide_eq_true_eq]
      · rw [Memory.read_clearFrom, if_neg (Nat.not_lt.mpr hx)]
      · rw [Memory.read_clearFrom, if_pos hx]
    · have hacc : s.arbiter.inProgress = some ⟨.rotating .port, a, some 0x00, true⟩ := by rw [harb]
      refine ⟨Memory.clearFrom (Memory.write s.mem a 0x00) (a + 1), ?_, fun x hx => ?_, fun x hx => ?_⟩
      · rw [exec_powerOnClearComplete_writing hp ha hacc, perform_clearing hp hacc]
        simp only [endClear, State.restServed, harb, ha, ite_self]
      · rw [Memory.read_clearFrom_write hwf ha, Memory.read_clearFrom, if_neg (Nat.not_lt.mpr hx)]
      · rw [Memory.read_clearFrom_write hwf ha, Memory.read_clearFrom, if_pos hx]
  · have hinside : 65535 < Config.memSize := by decide
    have hperform := perform_clearing hp hacc
    have hdue : due (perform s) = endClear 65536 (perform s) :=
      due_endClear (by rw [hperform]) (Nat.le_refl _) (by rw [hperform]; exact hc) (by rw [hperform]; exact hf)
        (by rw [hperform]; exact hproof)
    refine ⟨_, _, step_of_access hq (by simp [hp]) hr hf hacc hinside,
      exec_powerOnClearComplete_writing hp hinside hacc, ?_⟩
    rw [regrant_arbiter, hdue]
    rfl

end Sys2Proof.Machine
end

section
/-! The bands of the ring: SET_BANDS, its checks in order (R62, R63), the line step that starts a line (R69, R107), and the one
RENDERING and the one PRINTING band (R64). -/

namespace Sys2Proof.Machine

/-! ### SET_BANDS (R62, R63) -/

/-- Check 2 of SET_BANDS (R62). -/
theorem parseBands_length {ps : List Byte} (h : ps.length ≠ 4) : parseBands ps = .error .badLength := by
  match ps, h with
  | [], _ | [_], _ | [_, _], _ | [_, _, _], _ => rfl
  | _ :: _ :: _ :: _ :: _ :: _, _ => rfl

/-- The band configuration that SET_BANDS makes of its parameters (R62, R178). -/
abbrev bandsRecord (ps : List Byte) : BandParams := ⟨paramWord ps 0, paramByte ps 2, paramByte ps 3⟩

/-- The base, H or N of a band configuration is out of range (R62). -/
abbrev BandParams.OutOfRange (p : BandParams) : Prop := p.base % 16 ≠ 0 ∨ p.h ∉ [8, 16, 32, 64] ∨ p.n < 2 ∨ 8 < p.n

/-- Check 3 of SET_BANDS (R62). -/
theorem parseBands_four {ps : List Byte} (h : ps.length = 4) :
    parseBands ps = if (bandsRecord ps).OutOfRange then .error .badParam else .ok (bandsRecord ps) := by
  match ps, h with
  | [b0, b1, h, n], _ =>
    have hrange : (le16 b0 b1 % 16 = 0 ∧ h.toNat ∈ [8, 16, 32, 64] ∧ 2 ≤ n.toNat ∧ n.toNat ≤ 8) ↔
        ¬ (bandsRecord [b0, b1, h, n]).OutOfRange := by
      simp only [BandParams.OutOfRange, not_or, Decidable.not_not, Nat.not_lt]
      rfl
    rw [← ite_not]
    exact if_congr hrange rfl rfl

/-- No job is present, in the terms of the claims (R1). -/
theorem isEmpty_iff (t : JobTable) : t.isEmpty = true ↔ ¬ (t.front.isSome ∨ t.back.isSome) := by
  simp [JobTable.isEmpty]

/-- The checks of SET_BANDS in order, in the terms of the claims (R62). -/
theorem setBandsCheck_eq (ps : List Byte) (s : State) :
    let p := bandsRecord ps
    setBandsCheck ps s =
      if s.jobs.front.isSome ∨ s.jobs.back.isSome then .error .badState
      else if ps.length ≠ 4 then .error .badLength
      else if p.OutOfRange then .error .badParam
      else if 65536 < p.base + p.n * (s.headCfg.dots / 8) * p.h then .error .range
      else .ok p := by
  intro p
  unfold setBandsCheck
  rw [if_congr (isEmpty_iff s.jobs) rfl rfl, ite_not]
  by_cases hl : ps.length = 4
  · by_cases hr : p.OutOfRange
    · simp only [parseBands_four hl, hl, hr, p, if_true, not_true, if_false, ne_eq]
    · simp only [parseBands_four hl, hl, hr, p, not_true, if_false, ne_eq]
      rfl
  · simp only [parseBands_length hl, hl, ne_eq, not_false_eq_true, if_true]

theorem exec_setBands {s : State} (h : s.admits) :
    exec .setBands s = .next (completeWith (setBandsBody s.port.params (take Config.codeSetBands s))) :=
  congrArg _ (offer_taken h _ _)

/-- Settles O17: the checks in order by `setBandsCheck_eq`, on the jobs and the line width as before the take. -/
theorem setBandsChecksThenConfigures : Obligations.SetBandsChecksThenConfigures := by
  intro s h
  rw [exec_setBands h]
  simp only [setBandsBody, setBandsCheck_eq, completeWith_checked_ite]
  rfl

/-! ### A line started (R69, R107) -/

/-- A step in ARMED at a row that a band holds starts the line of that row (R107). -/
theorem armedStep_held {s : State} {j : Job} {i : Nat} (hrow : j.done < j.length)
    (hi : s.ring.bandHolding j.tag j.done = some i) : armedStep j s = startLine j i s := by
  rw [armedStep, if_neg (Nat.not_le.mpr hrow), hi]

/-- Settles O38: the step taken in ARMED is `startLine` of the band that holds the row. -/
theorem lineStepStartsALine : Obligations.LineStepStartsALine := by
  intro s j i b hp hm hj hrow hi hb
  rw [exec, execLineStep, lineStepOp_armed hp hm hj, armedStep_held hrow hi, startLine, hb]
  rfl

/-! ### One RENDERING and one PRINTING band (R64) -/

section
variable {s : State} (h : s.Table) {i k : Nat} {b c : Band} (hb : s.ring.bandAt i = some b) (hc : s.ring.bandAt k = some c)
include h hb hc

/-- A RENDERING band is the one the renderer composes (R76). -/
theorem State.Table.rendering_unique (hsb : b.state = .rendering) (hsc : c.state = .rendering) : i = k := by
  obtain ⟨-, -, _, -, hrb, -⟩ := h.bands i b hb
  obtain ⟨-, -, _, -, hrc, -⟩ := h.bands k c hc
  obtain ⟨-, w, hw, rfl, -⟩ := hrb hsb
  obtain ⟨-, v, hv, rfl, -⟩ := hrc hsc
  rw [Option.some.inj (hw.symm.trans hv)]

/-- A PRINTING band holds the next row of the front job, which no other band does (R64, R69). -/
theorem State.Table.printing_unique (hsb : b.state = .printing) (hsc : c.state = .printing) : i = k := by
  obtain ⟨-, -, j, hj, -, hlastb, -, hpb⟩ := h.bands i b hb
  obtain ⟨-, -, l, hl, -, hlastc, -, hpc⟩ := h.bands k c hc
  obtain ⟨hfrontb, hfirstb⟩ := hpb hsb
  obtain ⟨hfrontc, hfirstc⟩ := hpc hsc
  have hjob : b.job = c.job := by
    obtain ⟨f, hf, htb⟩ := isFront_iff.mp hfrontb
    obtain ⟨g, hg, htc⟩ := isFront_iff.mp hfrontc
    rw [← htb, ← htc, Option.some.inj (hf.symm.trans hg)]
  obtain rfl : j = l := Option.some.inj (hj.symm.trans (hjob ▸ hl))
  have hb' := (hlastb (by simp [hsb])).2
  have hc' := (hlastc (by simp [hsc])).2
  by_contra hne
  have := h.apart hb hc hne hjob
  omega

end

/-- Settles O58: the renderer has one band in work, and one band holds the front job's next row. -/
theorem oneRenderingAndOnePrintingBand : Obligations.OneRenderingAndOnePrintingBand := by
  intro s h i k b c hb hc hst hready
  have ht := table_of_labelLawful h
  cases hs : b.state with
  | rendering => exact ht.rendering_unique hb hc hs (hst ▸ hs)
  | ready => exact absurd hs hready
  | printing => exact ht.printing_unique hb hc hs (hst ▸ hs)

end Sys2Proof.Machine
end

section
/-! PROOF: the copy of a held row begun (R73, R74), and the copy completed, by the row and by the internal step (R74). -/

namespace Sys2Proof.Machine

/-! ### The first band that meets a condition (R64) -/

theorem bandAt_getElem {r : Ring} {i : Nat} (hi : i < r.bands.length) : r.bandAt i = r.bands[i] := by
  simp [Ring.bandAt, hi]

section
variable {r : Ring} {p : Band → Bool}

/-- No band is found exactly when none meets the condition. -/
theorem findIdx?_bands_eq_none : r.bands.findIdx? (Option.any p) = none ↔ ∀ i, ∀ b ∈ r.bandAt i, p b = false := by
  rw [List.findIdx?_eq_none_iff]
  constructor
  · intro h i b hb
    have hi := lt_of_bandAt hb
    simpa [← bandAt_getElem hi, Option.mem_def.mp hb] using h _ (List.getElem_mem hi)
  · intro h x hx
    obtain ⟨i, hi, rfl⟩ := List.mem_iff_getElem.mp hx
    rw [← bandAt_getElem hi]
    cases hb : r.bandAt i with
    | none => rfl
    | some b => exact h i b hb

/-- The band found is the first that meets the condition. -/
theorem findIdx?_bands_eq_some {i : Nat} {b : Band} (hb : r.bandAt i = some b) (hp : p b = true)
    (hfirst : ∀ k < i, ∀ c ∈ r.bandAt k, p c = false) : r.bands.findIdx? (Option.any p) = some i := by
  have hi := lt_of_bandAt hb
  refine List.findIdx?_eq_some_iff_getElem.mpr ⟨hi, ?_, fun k hk => ?_⟩
  · rw [← bandAt_getElem hi, hb]
    exact hp
  · rw [← bandAt_getElem (hk.trans hi)]
    cases hc : r.bandAt k with
    | none => exact Bool.false_ne_true
    | some c => simp [hfirst k hk c hc]

end

/-! ### The checks of PROOF (R73) -/

/-- Check 1 of PROOF (R73). -/
theorem parseProof_length {ps : List Byte} (h : ps.length ≠ 3) : parseProof ps = .error .badLength := by
  match ps, h with
  | [], _ | [_], _ | [_, _], _ => rfl
  | _ :: _ :: _ :: _ :: _, _ => rfl

/-- The tag and the row of PROOF (R73, R178). -/
theorem parseProof_three {ps : List Byte} (h : ps.length = 3) : parseProof ps = .ok (ps.getD 0 0x00, paramWord ps 1) := by
  match ps, h with
  | [_, _, _], _ => rfl

/-- A band holds a row for PROOF, in the terms of the claims (R73). -/
theorem proofHolds_iff (s : State) (j : Job) (row : Nat) (b : Band) : s.proofHolds j row b = true ↔ s.rowHeld j row b := by
  unfold State.proofHolds State.rowHeld Band.holds
  cases b.state <;> simp [and_assoc]

theorem proofBand_eq {s : State} {tag : Byte} {j : Job} (hj : s.jobs.find tag = some j) (row : Nat) :
    s.proofBand tag row = s.ring.bands.findIdx? (Option.any (s.proofHolds j row)) := by
  simp only [State.proofBand, hj]
  congr 1
  funext x
  cases x <;> rfl

/-- No band holds the row of the job of the tag, or there is no such job (R73). -/
theorem proofBand_none {s : State} {tag : Byte} {row : Nat}
    (h : ∀ j ∈ s.jobs.find tag, ∀ i, ∀ b ∈ s.ring.bandAt i, ¬ s.rowHeld j row b) : s.proofBand tag row = none := by
  cases hj : s.jobs.find tag with
  | none => simp only [State.proofBand, hj]
  | some j =>
    rw [proofBand_eq hj, findIdx?_bands_eq_none]
    exact fun i b hb => by simpa only [← proofHolds_iff, Bool.not_eq_true] using h j hj i b hb

/-- The band that holds the row is the first that does (R73). -/
theorem proofBand_some {s : State} {tag : Byte} {row i : Nat} {j : Job} {b : Band} (hj : s.jobs.find tag = some j)
    (hb : s.ring.bandAt i = some b) (hheld : s.rowHeld j row b)
    (hfirst : ∀ k < i, ∀ c ∈ s.ring.bandAt k, ¬ s.rowHeld j row c) : s.proofBand tag row = some i := by
  rw [proofBand_eq hj]
  refine findIdx?_bands_eq_some hb ((proofHolds_iff s j row b).mpr hheld) fun k hk c hc => ?_
  simpa only [← proofHolds_iff, Bool.not_eq_true] using hfirst k hk c hc

section
variable {s : State} {ps : List Byte}

theorem proofCheck_length (hl : ps.length ≠ 3) : proofCheck ps s = .error .badLength := by
  simp only [proofCheck, parseProof_length hl]

/-- Check 2 of PROOF (R73). -/
theorem proofCheck_notHeld (hl : ps.length = 3)
    (h : ∀ j ∈ s.jobs.find (ps.getD 0 0x00), ∀ i, ∀ b ∈ s.ring.bandAt i, ¬ s.rowHeld j (paramWord ps 1) b) :
    proofCheck ps s = .error .notHeld := by
  simp only [proofCheck, parseProof_three hl, proofBand_none h]

/-- The copy that PROOF of a held row begins (R73, R74). -/
theorem proofCheck_held (hl : ps.length = 3) {i : Nat} {j : Job} {b : Band} (hj : s.jobs.find (ps.getD 0 0x00) = some j)
    (hb : s.ring.bandAt i = some b) (hheld : s.rowHeld j (paramWord ps 1) b)
    (hfirst : ∀ k < i, ∀ c ∈ s.ring.bandAt k, ¬ s.rowHeld j (paramWord ps 1) c) :
    proofCheck ps s = .ok ⟨i, s.lineAddr i b.first (paramWord ps 1), []⟩ := by
  simp only [proofCheck, parseProof_three hl, proofBand_some hj hb hheld hfirst, hb]

end

/-! ### PROOF (R73, R74) -/

theorem exec_proof {s : State} (h : s.admits) :
    exec .proof s = .next (completeWith (proofBody s.port.params (take Config.codeProof s))) :=
  congrArg _ (offer_taken h _ _)

theorem proofCheck_take (ps : List Byte) (code : Byte) (s : State) : proofCheck ps (take code s) = proofCheck ps s := rfl

/-- PROOF that its checks refuse (R168). -/
theorem exec_proof_refused {s : State} (h : s.admits) {r : ResultCode} (hc : proofCheck s.port.params s = .error r) :
    exec .proof s = .next (s.answered 0x60 r []) := by
  rw [exec_proof h, proofBody, proofCheck_take, hc]
  rfl

/-- PROOF that its checks let through begins the copy (R74). -/
theorem exec_proof_begun {s : State} (h : s.admits) {c : ProofCopy} (hc : proofCheck s.port.params s = .ok c) :
    exec .proof s = .next { s with port := { s.port with
      params := [], answer := [], answerPos := 0, cmd := 0x60, busy := true, proof := some c } } := by
  rw [exec_proof h, proofBody, proofCheck_take, hc]
  rfl

/-- Settles O31: the checks of PROOF by `proofCheck_length`, `proofCheck_notHeld` and `proofCheck_held`. -/
theorem proofBeginsTheCopyOfAHeldRow : Obligations.ProofBeginsTheCopyOfAHeldRow := fun _ h =>
  ⟨fun hl => exec_proof_refused h (proofCheck_length hl), fun hl =>
    ⟨fun hno => exec_proof_refused h (proofCheck_notHeld hl hno), fun _ _ _ hj hb hheld hfirst =>
      exec_proof_begun h (proofCheck_held hl hj hb hheld hfirst)⟩⟩

/-! ### The copy's own access (R74, R128) -/

/-- The bytes of a copy after one more has been read are the bytes before (R74). -/
theorem line_read {c : ProofCopy} {w : Nat} (h : c.copied.length < w) (m : Memory) :
    ProofCopy.line { c with copied := c.copied ++ [Memory.read m (c.addr + c.copied.length)] } m w = c.line m w := by
  obtain ⟨n, hn⟩ : ∃ n, w - c.copied.length = n + 1 := ⟨w - c.copied.length - 1, by omega⟩
  have hn' : w - (c.copied.length + 1) = n := by omega
  simp only [ProofCopy.line, Memory.readRange, List.length_append, List.length_singleton, hn, hn', List.range_succ_eq_map,
    List.map_cons, List.map_map, List.append_assoc, List.singleton_append, Nat.add_zero]
  congr 3
  funext i
  simp only [Function.comp_apply, Nat.add_assoc, Nat.succ_eq_add_one, Nat.add_comm 1]

/-- The access in progress is the next read of a PROOF copy. -/
def State.copying (s : State) (c : ProofCopy) : Prop :=
  s.phase = .ready ∧ s.arbiter.inProgress = some ⟨.rotating .port, c.addr + c.copied.length, none, true⟩

section
variable {s : State} {c : ProofCopy} (hc : s.port.proof = some c)
include hc

/-- The copy's own access performed reads one byte more (R74). -/
theorem perform_copying (h : s.copying c) : perform s = { s with
    port := { s.port with
      proof := some { c with copied := c.copied ++ [Memory.read s.mem (c.addr + c.copied.length)] } }
    arbiter := { s.arbiter with inProgress := none } } := by
  obtain ⟨hp, ha⟩ := h
  simp only [perform, ha, State.land, progress, hp, hc, if_true]

theorem endProof_eq : endProof s =
    look (complete ⟨.ok, c.line s.mem s.headCfg.lineBytes⟩ { s with port := { s.port with proof := none } }) := by
  simp only [endProof, hc]

/-- The row performs the access in progress and then what is left of the copy (R74). -/
theorem exec_proofCopyComplete (hin : s.accessInside = true) (hline : c.addr + s.headCfg.dots / 8 ≤ 65536) :
    exec .proofCopyComplete s = .next (endProof ((perform s).restServed (perform s).copyLeft .port)) := by
  have hline' : c.addr + s.headCfg.lineBytes ≤ Config.memSize := hline
  simp only [exec, execProofCopyComplete, hc, hin, hline', decide_true, Bool.and_self, if_true]

end

/-- The access in progress of a copy that has bytes to read lies inside memory with its line (R124). -/
theorem accessInside_copying {s : State} {c : ProofCopy} (h : s.copying c) (hlt : c.copied.length < s.headCfg.dots / 8)
    (hline : c.addr + s.headCfg.dots / 8 ≤ 65536) : s.accessInside = true := by
  obtain ⟨-, ha⟩ := h
  simp only [State.accessInside, ha, decide_eq_true_eq]
  exact Nat.lt_of_lt_of_le (Nat.add_lt_add_left hlt _) hline

/-! ### The internal step that performs the last access (R130) -/

/-- The internal step with an access in progress performs the access, takes the ends that it brings about, and grants the next
one (R130, log entry 13). -/
theorem step_of_timed_access {s : State} (hq : s.pending = []) (hp : s.phase ≠ .held) (hr : s.atReading = false) {a : Access}
    (ha : (timers s).arbiter.inProgress = some a) (hin : (timers s).accessInside = true) :
    step s = .next (regrant (due (perform (timers s)))) := by
  have hgrant : grant (timers s) = timers s := by rw [grant, ha]
  simp only [step, hq, tick, hp, hr, hgrant, hin, if_true, if_false, Bool.false_eq_true]

/-- The end of the PROOF copy is the one end that is due once its last byte has been read, when no fetch and no band is at its
end (R74). -/
theorem due_endProof {s : State} {c : ProofCopy} (hp : s.phase = .ready)
    (hfetch : ∀ line, s.head.mode = .inFlight .fetch line → line.bytes.length < s.headCfg.dots / 8)
    (hband : s.composed = false) (hc : s.port.proof = some c) (hlast : s.headCfg.dots / 8 ≤ c.copied.length) :
    due s = endProof s := by
  have hlast' : s.headCfg.lineBytes ≤ c.copied.length := hlast
  have hband' : dueBand s = s := by rw [dueBand, hband, if_neg Bool.false_ne_true]
  rw [due, dueClear_ready hp, dueFetch_going hfetch, hband', dueProof, hc]
  exact if_pos hlast'

/-- Settles O32: the bytes of the line are the same before and after the copy's access in progress (`line_read`), and the
internal step takes the end by itself (`due_endProof`). -/
theorem proofCopyCompletesWithTheLine : Obligations.ProofCopyCompletesWithTheLine := by
  refine ⟨fun s c hc hline h => ?_, ?_⟩
  · rcases h with hquiet | ⟨hp, hlt, harb⟩
    · rw [exec_proofCopyComplete hc (by simp only [State.accessInside, hquiet]) hline, perform_quiet hquiet,
        endProof_eq (s := s.restServed _ _) hc]
      simp only [State.restServed, State.copyLeft, hc, hquiet, decide_eq_true_eq]
      rfl
    · have hcopy : s.copying c := ⟨hp, by rw [harb]⟩
      rw [exec_proofCopyComplete hc (accessInside_copying hcopy hlt hline) hline, perform_copying hc hcopy,
        endProof_eq (s := State.restServed _ _ _) rfl]
      simp only [State.restServed, harb, hlt, ite_self, line_read (w := s.headCfg.lineBytes) hlt]
      rfl
  · intro s c hq hp hr u hc hline hlast hacc hband hfetch
    have hcopy : u.copying c := ⟨(timers_phase s).trans hp, hacc⟩
    have hperform := perform_copying hc hcopy
    have hall : u.headCfg.dots / 8 ≤ (c.copied ++ [Memory.read u.mem (c.addr + c.copied.length)]).length := by
      rw [List.length_append, List.length_singleton, hlast]
    have hleft : (perform u).copyLeft = false := by
      rw [hperform]
      exact decide_eq_false (Nat.not_lt.mpr hall)
    have hdue : due (perform u) = endProof (perform u) := by
      rw [hperform]
      exact due_endProof hcopy.1 hfetch hband rfl hall
    have hin := accessInside_copying hcopy (by omega) hline
    refine ⟨_, _, step_of_timed_access hq (by simp [hp]) hr hacc hin, exec_proofCopyComplete hc hin hline, ?_⟩
    rw [regrant_arbiter, hdue, hleft]
    rfl

end Sys2Proof.Machine
end

section
/-! The law of the band ring's configuration (R60, R64, R65), operation by operation of the label. -/

namespace Sys2Proof.Machine

/-- A ring that SET_BANDS and the part's own moves lead to, for lines of w bytes: a configuration that SET_BANDS takes, the zone
inside memory, a record for each band, and a claim index that names a band (R60, R62, R64, R65). -/
structure Ring.Lawful (r : Ring) (w : Nat) : Prop where
  base : r.base % 16 = 0
  lines : r.h ∈ [8, 16, 32, 64]
  two_le : 2 ≤ r.n
  le_eight : r.n ≤ 8
  inside : r.base + r.n * w * r.h ≤ 65536
  records : r.bands.length = r.n
  claim : r.claim < r.n

theorem zoneLawful_iff (s : State) : s.zoneLawful ↔ s.ring.Lawful (s.headCfg.dots / 8) :=
  ⟨fun ⟨h1, h2, h3, h4, h5, h6, h7⟩ => ⟨h1, h2, h3, h4, h5, h6, h7⟩,
    fun ⟨h1, h2, h3, h4, h5, h6, h7⟩ => ⟨h1, h2, h3, h4, h5, h6, h7⟩⟩

/-! ### The ring's own moves (R66, R69, R70) -/

namespace Ring.Lawful
variable {r : Ring} {w : Nat} (h : r.Lawful w)
include h

theorem withBands {bands : List (Option Band)} (hb : bands.length = r.bands.length) : Ring.Lawful { r with bands := bands } w :=
  { h with records := hb.trans h.records }

theorem freeBands (tag : Byte) (keep : Bool) : (r.freeBands tag keep).Lawful w := h.withBands (List.length_map _)

/-- The index after a band, wrapped, names a band. -/
theorem withNext (i : Nat) : Ring.Lawful { r with claim := (i + 1) % r.n } w :=
  { h with claim := Nat.mod_lt _ (Nat.lt_of_lt_of_le Nat.zero_lt_two h.two_le) }

theorem setBack : r.setBack.Lawful w := by
  unfold Ring.setBack
  dsimp only
  split
  · exact h.withNext _
  · exact h

end Ring.Lawful

/-! ### The look, completion and abort (R13 to R21, R78 to R81) -/

section
variable {s : State} {w : Nat} (h : s.ring.Lawful w)
include h

theorem look_ring_lawful : (look s).ring.Lawful w := by
  rcases look_cases s with ⟨e, -⟩ | ⟨r, -, e⟩ | ⟨j, -, -, -, -, e⟩ <;> rw [e]
  · exact h
  · exact h
  · exact (h.withBands (List.length_set ..)).withNext s.ring.claim

theorem freeJob_ring_lawful (tag : Byte) (keep : Bool) : (freeJob tag keep s).ring.Lawful w := by
  rw [freeJob_ring]
  exact (h.freeBands tag keep).setBack

theorem completeFront_ring_lawful (j : Job) : (completeFront j s).ring.Lawful w := by
  refine look_ring_lawful ?_
  rw [frontLeaves_ring]
  refine freeJob_ring_lawful ?_ _ _
  rwa [post_ring]

theorem completeIfDone_ring_lawful : (completeIfDone s).ring.Lawful w := by
  rcases completeIfDone_cases s with e | ⟨j, -, -, -, e⟩ <;> rw [e]
  · exact h
  · exact completeFront_ring_lawful h j

theorem abortFrontAtOnce_ring_lawful (j : Job) (cause : AbortCause) : (abortFrontAtOnce j cause s).ring.Lawful w := by
  refine look_ring_lawful ?_
  rw [frontLeaves_ring, post_ring]
  exact freeJob_ring_lawful h _ _

theorem abortBack_ring_lawful (j : Job) : (abortBack j s).ring.Lawful w := by
  refine look_ring_lawful ?_
  show (post _ _).ring.Lawful w
  rw [post_ring]
  exact freeJob_ring_lawful h _ _

theorem abortInFlight_ring_lawful (cause : AbortCause) : (abortInFlight cause s).ring.Lawful w := by
  unfold abortInFlight
  split
  · split
    · exact h
    · exact look_ring_lawful (freeJob_ring_lawful (s := s.updateFront _) h _ _)
  · exact h

theorem endAbort_ring_lawful : (endAbort s).ring.Lawful w := by
  unfold endAbort
  split
  · split
    · refine look_ring_lawful ?_
      rw [frontLeaves_ring, post_ring]
      exact (h.freeBands _ false).setBack
    · exact h
  · exact h

/-! ### A step consumed with no line in flight (R105 to R107, R113, R114, R117) -/

theorem trailingStep_ring_lawful : (trailingStep s).ring.Lawful w := by
  rw [trailingStep, settle_ring]
  exact completeIfDone_ring_lawful (s := s.clearHistory.advanceDone) h

theorem startLine_ring_lawful (j : Job) (i : Nat) : (startLine j i s).ring.Lawful w := by
  unfold startLine
  split
  · exact h.withBands (List.length_set ..)
  · exact h

theorem underrunStep_ring_lawful (j : Job) : (underrunStep j s).ring.Lawful w := by
  unfold underrunStep
  split <;> rw [settle_ring]
  · refine completeIfDone_ring_lawful ?_
    rw [post_ring]
    exact h
  · exact abortFrontAtOnce_ring_lawful h j .underrun

theorem armedStep_ring_lawful (j : Job) : (armedStep j s).ring.Lawful w := by
  unfold armedStep
  split
  · exact trailingStep_ring_lawful h
  · split
    · exact startLine_ring_lawful h j _
    · exact underrunStep_ring_lawful h j

theorem servedStep_ring_lawful : (servedStep s).ring.Lawful w := by
  unfold servedStep
  split
  · rwa [settle_ring]
  · split
    · exact armedStep_ring_lawful h _
    · exact underrunStep_ring_lawful h _

theorem serveLatch_ring_lawful : (serveLatch s).ring.Lawful w := by
  unfold serveLatch
  split
  · exact servedStep_ring_lawful (s := { s with head := _ }) h
  · rw [settle_ring]
    exact h

/-! ### The end of a line (R69, R110, R116, R120) -/

theorem releaseBand_ring_lawful (line : Line) : (releaseBand line s).ring.Lawful w := by
  rcases releaseBand_cases line s with e | ⟨b, -, -, e⟩ <;> rw [e]
  · exact h
  · exact look_ring_lawful (h.withBands (List.length_set ..))

theorem endAbortOrComplete_ring_lawful : (endAbortOrComplete s).ring.Lawful w := by
  unfold endAbortOrComplete
  split
  · split
    · exact endAbort_ring_lawful h
    · exact completeIfDone_ring_lawful h
  · exact h

theorem endLine_ring_lawful (line : Line) : (endLine line s).ring.Lawful w :=
  serveLatch_ring_lawful (endAbortOrComplete_ring_lawful (releaseBand_ring_lawful (s := printed line s) h line))

theorem abandonLine_ring_lawful : (abandonLine s).ring.Lawful w :=
  serveLatch_ring_lawful (s := (endAbort s).orphan .fetch) (endAbort_ring_lawful h)

/-! ### Shifts, pulses and line steps (R105, R108 to R111, R118 to R120) -/

theorem startPulse_ring_lawful (p : Pass) (line : Line) : (startPulse p line s).ring.Lawful w := by
  unfold startPulse markStarted
  split
  · exact h
  · show (post _ _).ring.Lawful w
    rw [post_ring]
    exact h

theorem takeUpGroup_ring_lawful (p : Pass) (k : Nat) (line : Line) : (takeUpGroup p k line s).ring.Lawful w := by
  unfold takeUpGroup
  split
  · split
    · exact h
    · exact startPulse_ring_lawful h p _
  · split
    · exact h
    · exact endLine_ring_lawful h line

theorem lineFetched_ring_lawful (line : Line) : (lineFetched line s).ring.Lawful w := by
  unfold lineFetched
  split
  · dsimp only
    split <;> exact h
  · exact endLine_ring_lawful h line

theorem endFetch_ring_lawful : (endFetch s).ring.Lawful w := by
  unfold endFetch
  split
  · exact lineFetched_ring_lawful h _
  · exact h

theorem endShift_ring_lawful : (endShift s).ring.Lawful w := by
  unfold endShift
  split
  · exact takeUpGroup_ring_lawful h _ 1 _
  · exact h

theorem endPulse_ring_lawful : (endPulse s).ring.Lawful w := by
  unfold endPulse
  split
  · split
    · exact abandonLine_ring_lawful h
    · exact takeUpGroup_ring_lawful h _ _ _
  · exact h

theorem expireHold_ring_lawful : (expireHold s).ring.Lawful w := by
  unfold expireHold
  split
  · exact abandonLine_ring_lawful (abortInFlight_ring_lawful h .headHot)
  · exact h

theorem releaseHold_ring_lawful : (releaseHold s).ring.Lawful w := by
  unfold releaseHold
  split
  · exact startPulse_ring_lawful h _ _
  · exact h

theorem loseStep_ring_lawful (phase : LinePhase) (line : Line) : (loseStep phase line s).ring.Lawful w := by
  have ht := abortInFlight_ring_lawful (s := { s with
    head := { s.head with latch := false, mode := .inFlight phase { line with ending := true } } }) h .stepLost
  unfold loseStep
  dsimp only
  split
  · exact ht
  · exact abandonLine_ring_lawful ht

theorem lineStepOp_ring_lawful : (lineStepOp s).ring.Lawful w := by
  unfold lineStepOp
  split
  · split
    · exact h
    · exact underrunStep_ring_lawful h _
    · exact armedStep_ring_lawful h _
    · split
      · exact h
      · split
        · exact loseStep_ring_lawful h _ _
        · exact h
    · exact h
  · exact h

theorem timers_ring_lawful : (timers s).ring.Lawful w := by
  unfold timers
  split
  · split
    · exact endShift_ring_lawful h
    · exact h
  · split
    · exact endPulse_ring_lawful h
    · exact h
  · split
    · exact expireHold_ring_lawful h
    · exact h
  · exact h

/-! ### The completion of a band, and the job commands (R7 to R9, R16, R96) -/

theorem bandDone_ring_lawful (work : Work) : (bandDone work s).ring.Lawful w := by
  obtain ⟨-, -, hring, -⟩ := postAll_label (retiredReports work s.placements) (bandCompleted work s)
  rw [bandDone_completed, settle_ring]
  refine look_ring_lawful ?_
  rw [hring]
  exact h.withBands (List.length_set ..)

theorem openJobAct_ring_lawful (p : OpenParams) : (openJobAct p s).ring.Lawful w := by
  unfold openJobAct
  split
  · refine look_ring_lawful ?_
    rw [settle_ring]
    exact h
  · exact look_ring_lawful (s := { s with jobs := _ }) h

theorem commitAct_ring_lawful (j : Job) (row : Nat) : (commitAct j row s).ring.Lawful w := by
  unfold commitAct
  split
  · exact look_ring_lawful (s := { s with jobs := _ }) h
  · exact h

theorem abortJobAct_ring_lawful (j : Job) : (abortJobAct j s).ring.Lawful w := by
  unfold abortJobAct
  split
  · split
    · exact abortInFlight_ring_lawful h .host
    · rw [settle_ring]
      exact abortFrontAtOnce_ring_lawful h j .host
  · exact abortBack_ring_lawful h j

end

end Sys2Proof.Machine
end

section
/-! Every step keeps the laws of the command port (R163, R169, R166) and of both configurations (R60, R64, R65, R99). -/

namespace Sys2Proof.Machine

/-! ### What keeps both laws -/

/-- The second state meets the law of the command port if the first does, and likewise the law of both configurations. -/
structure State.KeepsPortAndConfig (s t : State) : Prop where
  port : s.portLawful → t.portLawful
  config : s.configLawful → t.configLawful

theorem State.KeepsPortAndConfig.refl (s : State) : s.KeepsPortAndConfig s := ⟨id, id⟩

theorem State.KeepsPortAndConfig.trans {s t u : State} (h : s.KeepsPortAndConfig t) (k : t.KeepsPortAndConfig u) :
    s.KeepsPortAndConfig u :=
  ⟨k.port ∘ h.port, k.config ∘ h.config⟩

/-- The law of the configurations looks at the ring and the head configuration alone. -/
theorem configLawful_congr {s t : State} (hring : t.ring = s.ring) (hcfg : t.headCfg = s.headCfg) :
    s.configLawful → t.configLawful := by
  unfold State.configLawful State.zoneLawful
  rw [hring, hcfg]
  exact id

/-- A change of the label that keeps the ring lawful for lines of any width. -/
theorem LabelOnly.configLawful {s t : State} (hl : LabelOnly s t) (hr : ∀ w, s.ring.Lawful w → t.ring.Lawful w) :
    s.configLawful → t.configLawful := fun ⟨hcfg, hzone⟩ =>
  ⟨hl.headCfg ▸ hcfg, (zoneLawful_iff t).mpr (hl.headCfg ▸ hr _ ((zoneLawful_iff s).mp hzone))⟩

theorem LabelOnly.keeps {s t : State} (hl : LabelOnly s t) (hr : ∀ w, s.ring.Lawful w → t.ring.Lawful w) :
    s.KeepsPortAndConfig t :=
  ⟨hl.portLawful, hl.configLawful hr⟩

theorem SameLabel.keeps {s t : State} (h : SameLabel s t) : s.KeepsPortAndConfig t :=
  ⟨h.port, configLawful_congr h.ring h.headCfg⟩

/-- A PROOF copy goes on only while the part is READY (R74). -/
theorem ready_of_proof {s : State} (h : s.portLawful) {c : ProofCopy} (hc : s.port.proof = some c) : s.phase = .ready := by
  by_contra hn
  obtain ⟨-, -, -, hidle⟩ := h
  obtain ⟨-, hnone⟩ := hidle hn
  rw [hnone] at hc
  cases hc

/-! ### The access performed, and the ends of the operations (R74, R96, R108, R128, R133) -/

theorem moved_portLawful {c : Client} {v : Byte} {s t : State} (h : s.portLawful) (hm : Moved c v s t) : t.portLawful := by
  cases hm with
  | nothing => exact h
  | fetch line _ _ => exact h
  | renderer w _ => exact h
  | upload up rep f => exact portLawful_sticky rfl rfl h
  | clear a ha =>
    obtain ⟨hparams, hanswer, -, hidle⟩ := h
    exact ⟨hparams, hanswer, fun hr => (by cases hr), fun _ => hidle (by simp [ha])⟩
  | copy p hp =>
    have hready := ready_of_proof h hp
    obtain ⟨hparams, hanswer, hbusy, -⟩ := h
    have hb := hbusy hready
    rw [hp] at hb
    exact ⟨hparams, hanswer, fun _ => hb, fun hn => absurd hready hn⟩

theorem perform_keeps (s : State) : s.KeepsPortAndConfig (perform s) := by
  refine ⟨fun h => ?_, configLawful_congr (performed s).ring (performed s).headCfg⟩
  rcases perform_moved s with ⟨-, he⟩ | ⟨a, m, v, -, hm, -⟩
  · rwa [he]
  · exact moved_portLawful (s := s.landing m) h hm

theorem takeReading_keeps (s : State) : s.KeepsPortAndConfig (takeReading s) := by
  unfold takeReading
  split
  · exact ⟨id, id⟩
  · exact .refl s

theorem endClear_keeps {s : State} {a b : Nat} (hp : s.phase = .clearing a) : s.KeepsPortAndConfig (endClear b s) := by
  refine ⟨fun ⟨hparams, hanswer, _, hidle⟩ => ⟨hparams, hanswer, fun _ => ?_, fun hn => absurd rfl hn⟩, id⟩
  obtain ⟨hbusy, hproof⟩ := hidle (by simp [hp])
  show s.port.busy = s.port.proof.isSome
  rw [hbusy, hproof]
  rfl

theorem finishClear_keeps (s : State) : s.KeepsPortAndConfig (finishClear s) := by
  unfold finishClear
  split
  · exact (endClear_keeps (by assumption)).trans (restServed_sameLabel _ _ _).keeps
  · exact .refl s

theorem endFetch_keeps (s : State) : s.KeepsPortAndConfig (endFetch s) := by
  refine LabelOnly.keeps ?_ fun _ => endFetch_ring_lawful
  unfold endFetch
  split
  · exact lineFetched_labelOnly _ s
  · exact .refl s

theorem finishBand_keeps (s : State) : s.KeepsPortAndConfig (finishBand s) := by
  unfold finishBand
  split
  · rename_i w _
    exact .trans (t := { s with mem := composeRest s w }) ⟨id, id⟩
      ((bandDone_labelOnly w _).keeps fun _ h => bandDone_ring_lawful h w)
  · exact .refl s

theorem endProof_keeps (s : State) : s.KeepsPortAndConfig (endProof s) := by
  unfold endProof
  split
  · rename_i c hc
    refine .trans (t := complete ⟨.ok, c.line s.mem s.headCfg.lineBytes⟩ { s with port := { s.port with proof := none } })
      ⟨fun h => ?_, id⟩ ((look_labelOnly _).keeps fun _ => look_ring_lawful)
    have hready := ready_of_proof h hc
    obtain ⟨hparams, -⟩ := h
    exact ⟨hparams, Nat.zero_le _, fun _ => rfl, fun hn => absurd hready hn⟩
  · exact .refl s

/-- The ends that an access brings about, and the next grant (R128, R130). -/
theorem regrant_due_keeps (s : State) : s.KeepsPortAndConfig (regrant (due s)) := by
  have hclear : s.KeepsPortAndConfig (dueClear s) := by
    unfold dueClear
    split
    · split
      · exact endClear_keeps (by assumption)
      · exact .refl s
    · exact .refl s
  have hfetch : ∀ u : State, u.KeepsPortAndConfig (dueFetch u) := fun u => by
    unfold dueFetch
    split
    · split
      · exact endFetch_keeps u
      · exact .refl u
    · exact .refl u
  have hband : ∀ u : State, u.KeepsPortAndConfig (dueBand u) := fun u => by
    unfold dueBand
    split
    · exact finishBand_keeps u
    · exact .refl u
  have hproof : ∀ u : State, u.KeepsPortAndConfig (dueProof u) := fun u => by
    unfold dueProof
    split
    · split
      · exact endProof_keeps u
      · exact .refl u
    · exact .refl u
  rw [regrant_arbiter]
  exact (((hclear.trans (hfetch _)).trans (hband _)).trans (hproof _)).trans ⟨id, id⟩

/-! ### A command taken (R164, R166) -/

/-- The command port right after the take of a code, with no PROOF copy going on (R164). -/
structure State.PortTaken (s : State) : Prop where
  phase : s.phase = .ready
  busy : s.port.busy = true
  params : s.port.params = []
  answerPos : s.port.answerPos = 0
  proof : s.port.proof = none

theorem take_portTaken {s : State} (h : s.portLawful) (ha : s.admits) (code : Byte) : (take code s).PortTaken where
  phase := ha.1
  busy := rfl
  params := rfl
  answerPos := rfl
  proof := by
    obtain ⟨hready, hbusy⟩ := ha
    obtain ⟨-, -, hproof, -⟩ := h
    have := hproof hready
    rw [hbusy] at this
    exact Option.not_isSome_iff_eq_none.mp (by simp [← this])

/-- A command completes with its parameters gone, the answer unread and the port free (R166). -/
theorem complete_portLawful {s : State} (hphase : s.phase = .ready) (hparams : s.port.params = [])
    (hproof : s.port.proof = none) (r : Reply) : (complete r s).portLawful := by
  refine ⟨?_, Nat.zero_le _, fun _ => ?_, fun hn => absurd hphase hn⟩
  · show s.port.params.length ≤ 48
    rw [hparams]
    exact Nat.zero_le _
  · show false = s.port.proof.isSome
    rw [hproof]
    rfl

theorem commitAct_labelOnly (j : Job) (row : Nat) (s : State) : LabelOnly s (commitAct j row s) := by
  unfold commitAct
  split
  · exact look_withJobs_labelOnly _ s
  · exact .refl s

section
variable {s : State} {ps : List Byte}

/-- A command taken leaves the law of the port. -/
theorem commanded_portLawful (h : s.PortTaken) {t : State} (ht : Commanded ps s t) : t.portLawful := by
  have kept : ∀ {u : State} (r : Reply), u.phase = s.phase → u.port.params = s.port.params →
      u.port.proof = s.port.proof → (complete r u).portLawful := fun r hphase hparams hproof =>
    complete_portLawful (hphase.trans h.phase) (hparams.trans h.params) (hproof.trans h.proof) r
  have labelled : ∀ {u : State} (r : Reply), LabelOnly s u → (complete r u).portLawful := fun r hl =>
    kept r hl.phase hl.params hl.proof
  cases ht with
  | openJob p hc => exact labelled _ (openJobAct_labelOnly hc)
  | commit x _ => exact labelled _ (commitAct_labelOnly x.1 x.2 s)
  | closeJob j _ => exact labelled _ (look_withJobs_labelOnly _ s)
  | abortJob j _ => exact labelled _ (abortJobAct_labelOnly j s)
  | loadSegment g =>
    unfold loadSegmentAct
    split <;> exact kept _ rfl rfl rfl
  | proof c _ =>
    refine ⟨?_, ?_, fun _ => h.busy, fun hn => absurd h.phase hn⟩
    · show s.port.params.length ≤ 48
      rw [h.params]
      exact Nat.zero_le _
    · show s.port.answerPos ≤ s.port.answer.length
      rw [h.answerPos]
      exact Nat.zero_le _
  | _ => exact kept _ rfl rfl rfl

/-- A command taken keeps the law of the configurations: SET_HEAD and SET_BANDS by their checks (R62, R100). -/
theorem commanded_configLawful (h : s.configLawful) {t : State} (ht : Commanded ps s t) : t.configLawful := by
  have completed : ∀ {u : State} (r : Reply), u.configLawful → (complete r u).configLawful := fun _ => id
  cases ht with
  | setHead c hc =>
    obtain ⟨-, hcfg, hinside⟩ := setHeadCheck_ok hc
    have hzone := (zoneLawful_iff s).mp h.2
    exact completed _ ⟨hcfg, (zoneLawful_iff (setHeadAct c s)).mpr { hzone with inside := hinside }⟩
  | setBands p hc =>
    obtain ⟨-, ⟨hbase, hh, hn2, hn8⟩, hinside⟩ := setBandsCheck_ok hc
    exact completed _ ⟨h.1, hbase, hh, hn2, hn8, hinside, List.length_replicate, Nat.lt_of_lt_of_le Nat.zero_lt_two hn2⟩
  | openJob p hc =>
    exact completed _ ((openJobAct_labelOnly hc).configLawful (fun _ hr => openJobAct_ring_lawful hr p) h)
  | commit x _ =>
    exact completed _ ((commitAct_labelOnly x.1 x.2 s).configLawful (fun _ hr => commitAct_ring_lawful hr x.1 x.2) h)
  | closeJob j _ =>
    exact completed _ ((look_withJobs_labelOnly _ s).configLawful (fun _ hr => look_ring_lawful (s := s.withJobs _) hr) h)
  | abortJob j _ => exact completed _ ((abortJobAct_labelOnly j s).configLawful (fun _ hr => abortJobAct_ring_lawful hr j) h)
  | loadSegment g =>
    unfold loadSegmentAct
    split <;> exact completed _ (configLawful_congr (s := s) rfl rfl h)
  | _ => exact h

end

/-- SOFT_RESET frees the port and keeps the configurations, every band FREE (R175). -/
theorem softReset_keeps {s : State} (hphase : s.phase = .ready) :
    s.KeepsPortAndConfig (complete ⟨.ok, []⟩ (softResetAct (take Config.codeSoftReset s))) := by
  obtain ⟨-, -, -, hph⟩ := landInProgress_kept (take Config.codeSoftReset s)
  exact ⟨fun _ => complete_portLawful (s := softResetAct _) (hph.trans hphase) rfl rfl _,
    fun h => (softResetAct_label (s := take Config.codeSoftReset s) h).table.config⟩

theorem writeCmd_keeps (code : Byte) (s : State) : s.KeepsPortAndConfig (writeCmd code s) := by
  have ht := writeCmd_written code s
  generalize writeCmd code s = t at ht
  cases ht with
  | held => exact .refl s
  | refused => exact ⟨portLawful_sticky rfl rfl, id⟩
  | softReset hphase => exact softReset_keeps hphase
  | taken ha _ ht =>
    exact ⟨fun h => commanded_portLawful (take_portTaken h ha code) ht,
      fun h => commanded_configLawful (s := take code s) h ht⟩

/-! ### Every event -/

/-- RESET gives the port and both configurations their power-on values (R99, R132, R176). -/
theorem inReset_keeps (s : State) {phase : PowerPhase} (hn : phase ≠ .ready) : s.KeepsPortAndConfig (s.inReset phase) where
  port := fun _ => ⟨Nat.zero_le _, Nat.zero_le _, fun h => absurd h hn, fun _ => ⟨rfl, rfl⟩⟩
  config := fun _ => configLawful_congr (s := State.reset) rfl rfl reset_labelLawful.config

theorem event_keeps {s t : State} (he : Event s t) : s.KeepsPortAndConfig t := by
  cases he with
  | same hs => exact hs.keeps
  | access hs => exact (perform_keeps s).trans hs.keeps
  | command code => exact writeCmd_keeps code s
  | reset phase hn => exact inReset_keeps s hn
  | clearEnd a _ => exact (perform_keeps s).trans (finishClear_keeps _)
  | lineStep => exact (lineStepOp_labelOnly s).keeps fun _ => lineStepOp_ring_lawful
  | hotReleased hs => exact hs.keeps.trans ((releaseHold_labelOnly _).keeps fun _ => releaseHold_ring_lawful)
  | fetchEnd => exact (perform_keeps s).trans (endFetch_keeps _)
  | shiftEnd => exact (endShift_labelOnly s).keeps fun _ => endShift_ring_lawful
  | pulseEnd => exact (endPulse_labelOnly s).keeps fun _ => endPulse_ring_lawful
  | holdExpired => exact (expireHold_labelOnly s).keeps fun _ => expireHold_ring_lawful
  | bandEnd hs => exact ((perform_keeps s).trans hs.keeps).trans (finishBand_keeps _)
  | copyEnd hs => exact ((perform_keeps s).trans hs.keeps).trans (endProof_keeps _)

/-- One period of CLKIN: the timers, a grant and an access performed, and what they bring about (R128). -/
theorem period_keeps (s : State) : s.KeepsPortAndConfig (regrant (due (perform (grant (timers s))))) := by
  have htimers : s.KeepsPortAndConfig (timers s) := (timers_labelOnly s).keeps fun _ => timers_ring_lawful
  have hgrant : (timers s).KeepsPortAndConfig (grant (timers s)) :=
    (grant_labelOnly _).keeps fun _ h => by rwa [grant_ring]
  exact ((htimers.trans hgrant).trans (perform_keeps _)).trans (regrant_due_keeps _)

/-- Settles O53: each event of a step keeps both laws, the port's by what the take and the completion of a command leave
(`commanded_portLawful`), the configurations' by the ring's own moves (`Ring.Lawful`). -/
theorem everyStepKeepsThePortAndConfigurationLaws : Obligations.EveryStepKeepsThePortAndConfigurationLaws := by
  intro s t hstep
  have hkeeps : s.KeepsPortAndConfig t := by
    rcases step_cases hstep with ⟨rest, he⟩ | rfl | rfl | rfl
    · exact .trans (t := { s with pending := rest }) ⟨id, id⟩ (event_keeps he)
    · exact .refl t
    · exact (takeReading_keeps s).trans (regrant_due_keeps _)
    · exact period_keeps s
  exact ⟨hkeeps.port, hkeeps.config⟩

end Sys2Proof.Machine
end

section
/-! The renderer's accesses and readings, one by one, keep its place in range and the outcome of its band (R76, R87, R90). -/

namespace Sys2Proof.Machine

/-! ### The readings still to take (R56, R90) -/

section
variable {s : State} {p : Placement} {spacing : Nat} {codes : List Byte} (hk : p.kind = .glyphs spacing codes)
  {laid : List Laid}
include hk

/-- A reading taken now is one of those that were still to take. -/
theorem layRest_layNext (h : laid.length < codes.length) :
    s.layRest p (s.layNext p.left spacing laid codes[laid.length]) = s.layRest p laid := by
  have hlen : (s.layNext p.left spacing laid codes[laid.length]).length = laid.length + 1 := by simp [State.layNext]
  simp only [State.layRest, hk, hlen]
  rw [List.drop_eq_getElem_cons h, List.foldl_cons]

/-- With a reading taken for every code none is still to take. -/
theorem layRest_of_all (h : codes.length ≤ laid.length) : s.layRest p laid = laid := by
  simp only [State.layRest, hk, List.drop_eq_nil_of_le h, List.foldl_nil]

end

/-! ### One reading -/

/-- The cursor once the readings of a run have been taken so far: at the next reading, or at the first row of the copy's drawn
part (R90). -/
def Work.cursorAfterReading (w : Work) (p : Placement) (k : Nat) (codes : List Byte) (laid : List Laid) : Cursor :=
  if laid.length < codes.length then .reading laid else .drawing laid (w.firstRow p k) [] 0 none

section
variable {s : State} {w : Work} {c : CopyRef} {p : Placement} {spacing : Nat} {codes : List Byte} {laid : List Laid}
  (hx : w.current s.placements = some (c, p))
include hx

/-- At a reading of a run the renderer lays the glyph of the next code (R90). -/
theorem read_run (hc : w.cursor = .reading laid) (hk : p.kind = .glyphs spacing codes) (h : laid.length < codes.length) :
    w.read s = { w with
      cursor := w.cursorAfterReading p c.copy codes (s.layNext p.left spacing laid codes[laid.length]) } := by
  have hcode : codes[laid.length]? = some codes[laid.length] := List.getElem?_eq_getElem h
  simp only [Work.read, hc, hx, hk, hcode, Work.cursorAfterReading]
  split <;> rfl

/-- What is left to compose is the same at a reading and at the first row of the copy: the readings still to take come first
either way (R90). -/
theorem composeRest_afterReading (hk : p.kind = .glyphs spacing codes) (hrow : w.firstRow p c.copy < w.endRow p c.copy) :
    composeRest s { w with cursor := w.cursorAfterReading p c.copy codes laid } =
      finishCopies s w w.todo.tail (finishRows s w p c.copy (s.layRest p laid) (w.firstRow p c.copy) s.mem) := by
  unfold Work.cursorAfterReading
  split
  · have hx' : ({ w with cursor := .reading laid } : Work).current s.placements = some (c, p) := hx
    simp only [composeRest, hx']
    rfl
  · rename_i hall
    rw [layRest_of_all hk (Nat.not_lt.mp hall), finishRows_step s w p c.copy laid s.mem hrow]
    exact composeRest_drawing hx s.mem laid _ [] 0 none

/-- The cursor after a reading is in range, where the copy has a row and a column in the band. -/
theorem cursorInRange_afterReading (hk : p.kind = .glyphs spacing codes)
    (hrow : w.firstRow p c.copy < w.endRow p c.copy) (hcol : 0 < p.byteCount (p.limit s.headCfg.dots)) :
    ({ w with cursor := w.cursorAfterReading p c.copy codes laid } : Work).cursorInRange s := by
  unfold Work.cursorAfterReading
  split
  · rename_i hmore
    exact ⟨(c, p), hx, by simpa [Placement.codeCount, hk] using hmore⟩
  · exact ⟨(c, p), hx, Nat.le_refl _, hrow, hcol, Nat.zero_le _⟩

end

/-- A cursor in range at a reading stands at a code of a run (R90). -/
theorem reading_at_code {s : State} {w : Work} {laid : List Laid} (hw : w.inRange s) (hc : w.cursor = .reading laid) :
    ∃ c p spacing codes, w.current s.placements = some (c, p) ∧ p.kind = .glyphs spacing codes ∧
      laid.length < codes.length ∧ w.firstRow p c.copy < w.endRow p c.copy ∧
      0 < p.byteCount (p.limit s.headCfg.dots) := by
  obtain ⟨htodo, hcur⟩ := hw
  simp only [Work.cursorInRange, hc] at hcur
  obtain ⟨⟨c, p⟩, hx, hlen⟩ := hcur
  obtain ⟨rest, hrest, hfind⟩ := current_eq_some hx
  obtain ⟨q, hq, hrow, hcol, -⟩ := htodo c (hrest ▸ List.mem_cons_self ..)
  obtain rfl : p = q := Option.some.inj (hfind.symm.trans hq)
  cases hk : p.kind with
  | glyphs spacing codes => exact ⟨c, p, spacing, codes, hx, hk, by simpa [Placement.codeCount, hk] using hlen, hrow, hcol⟩
  | _ => simp [Placement.codeCount, hk] at hlen

/-- R90: after the renderer's next reading what is left to compose gives the same memory, and the work stands in range. -/
theorem read_keeps_outcome {s : State} {w : Work} {laid : List Laid} (hw : w.inRange s) (hc : w.cursor = .reading laid) :
    composeRest s (w.read s) = composeRest s w ∧ (w.read s).inRange s := by
  obtain ⟨c, p, spacing, codes, hx, hk, hlt, hrow, hcol⟩ := reading_at_code hw hc
  have hrest : composeRest s w =
      finishCopies s w w.todo.tail (finishRows s w p c.copy (s.layRest p laid) (w.firstRow p c.copy) s.mem) := by
    simp only [composeRest, hc, hx]
  rw [read_run hx hc hk hlt, composeRest_afterReading hx hk hrow, layRest_layNext hk hlt, hrest]
  exact ⟨rfl, hw.1, cursorInRange_afterReading hx hk hrow hcol⟩

/-! ### The renderer's own place in the state -/

/-- What is left to compose does not look at the renderer. -/
theorem composeRest_renderer (s : State) (r : Renderer) (w : Work) :
    composeRest { s with renderer := r } w = composeRest s w := rfl

/-- A renderer at a reading holds work whose cursor is at one (R90). -/
theorem reading_of_atReading {s : State} {w : Work} (hs : s.renderer = .rendering w) (h : s.atReading = true) :
    ∃ laid, w.cursor = .reading laid := by
  cases hc : w.cursor with
  | reading laid => exact ⟨laid, rfl⟩
  | _ => simp [State.atReading, hs, hc] at h

/-! ### The start of a band (R84, R85, R86) -/

/-- Each copy that a claim lists has a row and a column in the band (R86). -/
theorem claimed_drawable {s : State} {c : Chosen} {w : Work} (hcount : 1 ≤ c.count)
    (hd : s.placements.Pairwise fun p q => p.handle ≠ q.handle)
    (hp : ∀ p ∈ s.placements, 1 ≤ p.width ∧ 1 ≤ p.height ∧ p.hasCodes = true)
    (hw : (claimBand c s).renderer = .rendering w) : ∀ x ∈ w.todo, w.drawable (claimBand c s) x := by
  obtain rfl := Renderer.rendering.inj hw
  intro x hx
  obtain ⟨p, hentry, hxp⟩ := List.mem_flatMap.mp hx
  obtain ⟨hmem, hin⟩ := List.mem_filter.mp hentry
  obtain ⟨hwidth, hheight, hcodes⟩ := hp p hmem
  have hfind := findPlacement_claim hd hmem hin
  exact (drawnCopies_drawable (s := claimBand c s) (p := { p with active := true }) hcount hwidth hheight hcodes hxp hfind).1

/-- A claim leaves its work at the first byte to clear, every copy still to draw (R84, R85). -/
theorem claimed_inRange {s : State} {c : Chosen} {w : Work} (hbytes : 1 ≤ c.count * (s.headCfg.dots / 8))
    (hd : s.placements.Pairwise fun p q => p.handle ≠ q.handle)
    (hp : ∀ p ∈ s.placements, 1 ≤ p.width ∧ 1 ≤ p.height ∧ p.hasCodes = true)
    (hw : (claimBand c s).renderer = .rendering w) : w.inRange (claimBand c s) := by
  have htodo := claimed_drawable (Nat.pos_of_mul_pos_right hbytes) hd hp hw
  obtain rfl := Renderer.rendering.inj hw
  exact ⟨htodo, hbytes, Nat.le_refl _⟩

/-- Settles O50: an access by `composeRest_access` and `advance_inRange`, a reading by `read_keeps_outcome`, the start of a band by
`claimed_inRange`. -/
theorem rendererProgressKeepsTheOutcome : Obligations.RendererProgressKeepsTheOutcome := by
  refine ⟨fun s w hs hw => ⟨fun a v hreq => ?write, fun a hreq => ?read, fun hat => ?reading⟩,
    fun s c w hbytes hd hp hclaim => claimed_inRange hbytes hd hp hclaim⟩
  case write =>
    exact ⟨(composeRest_renderer { s with mem := _ } _ _).trans (composeRest_access hs hreq hw),
      inRange_of (advance_inRange hw _) rfl fun _ _ _ hf => hf⟩
  case read =>
    exact ⟨(composeRest_renderer s _ _).trans (composeRest_access hs hreq hw),
      inRange_of (advance_inRange hw _) rfl fun _ _ _ hf => hf⟩
  case reading =>
    obtain ⟨laid, hc⟩ := reading_of_atReading hs hat
    obtain ⟨hrest, hrange⟩ := read_keeps_outcome hw hc
    exact ⟨(composeRest_renderer s _ _).trans hrest, inRange_of hrange rfl fun _ _ _ hf => hf⟩

end Sys2Proof.Machine
end

section
/-! The RESET pin: what its assertion leaves and its release starts (R132, R133), and the accesses that are not taken while it is
asserted (R132). -/

namespace Sys2Proof.Machine

/-! ### The assertion and the release of RESET (R132, R133) -/

theorem resetReleasedOp_held {s : State} (h : s.phase = .held) : resetReleasedOp s = s.inReset (.clearing 0) := by
  simp only [resetReleasedOp, h]

/-- Settles O33: both rows lead to `State.inReset`, whose fields are the power-on values. -/
theorem resetPinGivesThePowerOnValues : Obligations.ResetPinGivesThePowerOnValues := fun _ =>
  ⟨rfl, fun h => congrArg Host.Outcome.next (resetReleasedOp_held h)⟩

/-! ### The accesses while RESET is asserted (R132) -/

/-- A command's row is the CMD write of the command's code (R178). -/
theorem exec_commandRow {row : Instr × Byte} (h : row ∈ commandRows) (s : State) :
    exec row.1 s = .next (writeCmd row.2 s) := by
  simp only [commandRows, List.mem_cons, List.not_mem_nil, or_false] at h
  rcases h with rfl | rfl | rfl | rfl | rfl | rfl | rfl | rfl | rfl | rfl | rfl | rfl | rfl | rfl | rfl <;> rfl

section
variable {s : State} (h : s.phase = .held)
include h

theorem writeCmd_held (code : Byte) : writeCmd code s = s := offer_held h code _

theorem paramWriteOp_held (v : Byte) : paramWriteOp v s = s := if_pos h

theorem dataWriteOp_held (v : Byte) : dataWriteOp v s = s := if_pos h

theorem irqPendWriteOp_held (v : Byte) : irqPendWriteOp v s = s := if_pos h

theorem irqEnWriteOp_held (v : Byte) : irqEnWriteOp v s = s := if_pos h

theorem stickyWriteOp_held (v : Byte) : stickyWriteOp v s = s := if_pos h

/-- No write to any offset is taken. -/
theorem writeRegister_held (offset : BitVec 4) (v : Byte) : writeRegister offset v s = s := by
  unfold writeRegister
  split
  · exact writeCmd_held h v
  · exact paramWriteOp_held h v
  · exact dataWriteOp_held h v
  · exact irqPendWriteOp_held h v
  · exact irqEnWriteOp_held h v
  · exact stickyWriteOp_held h v
  · rfl

theorem lineStepOp_held : lineStepOp s = s := if_neg (by simp [h])

/-- The four reads that change state return 00h and do nothing else. -/
theorem exec_read_held {c : Instr} (hc : c ∈ [Instr.answerRead, .dataRead, .reportRead, .rowDoneLowRead]) :
    exec c s = .next { s with dataOut := 0x00 } := by
  simp only [List.mem_cons, List.not_mem_nil, or_false] at hc
  rcases hc with rfl | rfl | rfl | rfl <;> exact congrArg Host.Outcome.next (if_pos h)

/-- The rows that write a byte to an offset of their own do nothing. -/
theorem exec_write_held {v : Byte} {c : Instr} (hc : c ∈ [Instr.unknownCommand v, .cmdWriteRefused v, .paramWrite v,
    .dataWrite v, .irqPendWrite v, .irqEnWrite v, .stickyWrite v]) : exec c s = .next s := by
  simp only [List.mem_cons, List.not_mem_nil, or_false] at hc
  rcases hc with rfl | rfl | rfl | rfl | rfl | rfl | rfl
  · exact congrArg Host.Outcome.next (writeCmd_held h v)
  · exact congrArg Host.Outcome.next (writeCmd_held h v)
  · exact congrArg Host.Outcome.next (paramWriteOp_held h v)
  · exact congrArg Host.Outcome.next (dataWriteOp_held h v)
  · exact congrArg Host.Outcome.next (irqPendWriteOp_held h v)
  · exact congrArg Host.Outcome.next (irqEnWriteOp_held h v)
  · exact congrArg Host.Outcome.next (stickyWriteOp_held h v)

theorem hotChangeOp_held (level : Bool) : hotChangeOp level s = { s with hot := level } := if_pos h

theorem paperChangeOp_held (level : Bool) : paperChangeOp level s = { s with paper := level } := if_pos h

end

/-- Settles O9: each row by what its operation does while RESET is asserted. -/
theorem nothingIsTakenWhileResetIsAsserted : Obligations.NothingIsTakenWhileResetIsAsserted := fun _ h =>
  ⟨fun _ hc => exec_read_held h hc, fun _ => if_pos h,
    fun _ hrow => (exec_commandRow hrow _).trans (congrArg _ (writeCmd_held h _)), fun _ _ hc => exec_write_held h hc,
    fun offset v => congrArg _ (writeRegister_held h offset v), congrArg _ (lineStepOp_held h),
    fun level => ⟨congrArg _ (hotChangeOp_held h level), congrArg _ (paperChangeOp_held h level)⟩⟩

end Sys2Proof.Machine
end

section
/-! STOP_UPLOAD (R148). -/

namespace Sys2Proof.Machine

theorem exec_stopUpload {s : State} (h : s.admits) :
    exec .stopUpload s = .next (completeWith (stopUploadBody s.port.params (take Config.codeStopUpload s))) :=
  congrArg _ (offer_taken h _ _)

/-- The bytes left, in the terms of the claims. -/
theorem upload_left_eq (u : Upload) : u.left = (u.cur.map Segment.bytesLeft).getD 0 := by
  unfold Upload.left
  cases u.cur <;> rfl

/-- A command with no parameter refuses any (R168). -/
theorem parseNone_eq (ps : List Byte) : parseNone ps = if ps ≠ [] then .error .badLength else .ok () := by
  cases ps <;> rfl

/-- Settles O12: the length check, and then the effect and the answer as STOP_UPLOAD's act gives them. -/
theorem stopUploadEmptiesTheChannel : Obligations.StopUploadEmptiesTheChannel := by
  intro s h
  rw [exec_stopUpload h]
  simp only [stopUploadBody, parseNone_eq, ← upload_left_eq]
  split <;> rfl

end Sys2Proof.Machine
end

section
/-! The power-on clear, period by period (R133, log entry 5). -/

namespace Sys2Proof.Machine

/-! ### Steps in a row -/

theorem run_succ {M : Host.Core} {s t : M.State} (h : M.step s = .next t) (k : Nat) : M.run (k + 1) s = M.run k t := by
  simp only [Host.Core.run, h]

theorem run_add {M : Host.Core} {j : Nat} {s t : M.State} (h : M.run j s = .next t) (k : Nat) :
    M.run (j + k) s = M.run k t := by
  induction j generalizing s with
  | zero =>
    obtain rfl := Host.Outcome.next.inj h
    rw [Nat.zero_add]
  | succ j ih =>
    rw [Nat.succ_add]
    simp only [Host.Core.run] at h ⊢
    cases hs : M.step s with
    | next u =>
      rw [hs] at h
      exact ih h
    | _ =>
      rw [hs] at h
      cases h

/-! ### The clear alone under way -/

/-- The last write of a cleared run. -/
theorem clearRange_last (m : Memory) (a n : Nat) :
    Memory.clearRange m a (n + 1) = Memory.write (Memory.clearRange m a n) (a + n) 0x00 := by
  simp [Memory.clearRange, List.range_succ]

/-- No row waits, and no operation is under way but, in its phase, the power-on clear. -/
structure State.OnlyClears (s : State) : Prop where
  pending : s.pending = []
  renderer : s.renderer = .idle
  mode : s.head.mode = .idle
  upload : s.upload.cur = none
  proof : s.port.proof = none

/-- The clear that has written the addresses below one, its write to that one granted (R133). -/
def State.clearingAt (s : State) (a : Nat) : State :=
  { s with
    phase := .clearing a
    mem := Memory.clearRange s.mem 0 a
    arbiter := ⟨some ⟨.rotating .port, a, some 0x00, true⟩, .port⟩ }

/-- The write just performed, and the next one not yet granted. -/
theorem perform_clearingAt (s : State) (a : Nat) :
    perform (s.clearingAt a) = { s.clearingAt (a + 1) with arbiter := ⟨none, .port⟩ } := by
  rw [perform_clearing rfl rfl]
  simp only [State.clearingAt, clearRange_last, Nat.zero_add]

namespace State.OnlyClears
variable {s : State} (h : s.OnlyClears)
include h

theorem atReading : s.atReading = false := by simp only [State.atReading, h.renderer]

theorem composed : s.composed = false := by simp only [State.composed, h.renderer]

theorem flight : s.head.mode.flight = none := by rw [h.mode]; rfl

theorem clearingAt (a : Nat) : (s.clearingAt a).OnlyClears := ⟨h.pending, h.renderer, h.mode, h.upload, h.proof⟩

/-- The clear is the one client that asks (R133), and is granted its next write. -/
theorem grant_eq {a : Nat} (hp : s.phase = .clearing a) (ha : a < Config.memSize) (harb : s.arbiter = ⟨none, .port⟩) :
    grant s = { s with arbiter := ⟨some ⟨.rotating .port, a, some 0x00, true⟩, .port⟩ } := by
  have hport : portRequest s = some ⟨a, some 0x00⟩ := by simp only [portRequest, hp, ha, if_true]
  have hfetch : fetchRequest s = none := by simp only [fetchRequest, h.mode]
  have hrenderer : rendererRequest s = none := by simp only [rendererRequest, h.renderer]
  have hupload : uploadRequest s = none := by simp only [uploadRequest, h.upload]
  simp [grant, choice, harb, hfetch, requestOf, Rotating.after, hport, hrenderer, hupload, grantTo]

/-- A period performs the write that stands granted in it, takes the end it brings about, and grants the next one (R130). -/
theorem step_granted {u : State} {a : Nat} (hp : s.phase = .clearing a) (ha : a < Config.memSize)
    (hg : grant s = u.clearingAt a) : step s = .next (regrant (due (perform (u.clearingAt a)))) := by
  have hinside : (u.clearingAt a).accessInside = true := decide_eq_true ha
  simp only [step, h.pending, tick, hp, h.atReading, timers_of_flight_none h.flight, hg, hinside, if_true, if_false,
    Bool.false_eq_true, reduceCtorEq]

/-- No end is due while addresses are left to clear. -/
theorem due_going {a : Nat} (hp : s.phase = .clearing a) (ha : a < Config.memSize) : due s = s := by
  have hclear : dueClear s = s := by simp only [dueClear, hp, Nat.not_le.mpr ha, if_false]
  have hproof : dueProof s = s := dueProof_going fun c hc => by
    rw [h.proof] at hc
    cases hc
  rw [due, hclear, dueFetch_of_flight_none h.flight, dueBand, h.composed, if_neg Bool.false_ne_true, hproof]

/-- The period after which addresses are left to clear. -/
theorem regrant_due {a : Nat} (ha : a + 1 < Config.memSize) :
    regrant (due (perform (s.clearingAt a))) = s.clearingAt (a + 1) := by
  have hu : ({ s.clearingAt (a + 1) with arbiter := ⟨none, .port⟩ } : State).OnlyClears :=
    ⟨h.pending, h.renderer, h.mode, h.upload, h.proof⟩
  rw [perform_clearingAt, hu.due_going rfl ha, regrant, hu.atReading, if_neg Bool.false_ne_true, hu.grant_eq rfl ha rfl]
  rfl

/-- A period of the clear clears one address (R133). -/
theorem step_clearingAt {a : Nat} (ha : a + 1 < Config.memSize) :
    step (s.clearingAt a) = .next (s.clearingAt (a + 1)) := by
  rw [(h.clearingAt a).step_granted rfl (Nat.lt_of_succ_lt ha) rfl, h.regrant_due ha]

/-- So many periods of the clear clear so many addresses. -/
theorem run_clearingAt {a : Nat} (k : Nat) (hk : a + k < Config.memSize) :
    Sys2Proof.core.run k (s.clearingAt a) = .next (s.clearingAt (a + k)) := by
  induction k generalizing a with
  | zero => rfl
  | succ k ih =>
    have hstep : Sys2Proof.core.step (s.clearingAt a) = .next (s.clearingAt (a + 1)) := h.step_clearingAt (by omega)
    rw [run_succ hstep, ih (by omega), Nat.succ_add_eq_add_succ]

/-- The period that clears the last address ends the clear (R133). -/
theorem step_last {a : Nat} (ha : a + 1 = Config.memSize) : ∃ arb, step (s.clearingAt a) =
    .next { endClear (a + 1) (s.clearingAt (a + 1)) with arbiter := arb } := by
  have hend : due { s.clearingAt (a + 1) with arbiter := ⟨none, .port⟩ } =
      endClear (a + 1) { s.clearingAt (a + 1) with arbiter := ⟨none, .port⟩ } :=
    due_endClear rfl (Nat.le_of_eq ha.symm) (h.clearingAt (a + 1)).composed h.flight h.proof
  rw [(h.clearingAt a).step_granted rfl (ha ▸ Nat.lt_succ_self a) rfl, perform_clearingAt, hend, regrant_arbiter]
  exact ⟨_, rfl⟩

/-- The first period, at the release of RESET: the write to address 0000h is granted and performed in it (R133). -/
theorem step_first (hp : s.phase = .clearing 0) (harb : s.arbiter = ⟨none, .port⟩) :
    Sys2Proof.core.step s = .next (s.clearingAt 1) := by
  have hgrant : grant s = s.clearingAt 0 := by
    rw [h.grant_eq hp (by decide) harb]
    simp only [State.clearingAt, ← hp]
    rfl
  exact (h.step_granted hp (by decide) hgrant).trans (congrArg _ (h.regrant_due (by decide)))

/-- The clear takes a period for each address, and then READY is 1 (R133). -/
theorem run_clear (hp : s.phase = .clearing 0) (harb : s.arbiter = ⟨none, .port⟩) :
    ∃ t : State, Sys2Proof.core.run Config.memSize s = .next t ∧ t.phase = .ready ∧ t.port = s.port ∧ t.irq = s.irq ∧
      t.mem = Memory.clearFrom (Memory.clearRange s.mem 0 Config.memSize) Config.memSize := by
  obtain ⟨a, ha⟩ : ∃ a, a + 2 = Config.memSize := ⟨65534, rfl⟩
  have hfirst := h.step_first hp harb
  have hrun : Sys2Proof.core.run a (s.clearingAt 1) = .next (s.clearingAt (a + 1)) := by
    rw [h.run_clearingAt a (by omega), Nat.add_comm]
  obtain ⟨arb, hlast⟩ := h.step_last ha
  rw [← ha]
  have hend := ((run_succ hfirst (a + 1)).trans (run_add hrun 1)).trans (run_succ (M := Sys2Proof.core) hlast 0)
  exact ⟨_, hend, rfl, rfl, rfl, rfl⟩

end State.OnlyClears

/-- Every byte cleared reads 00h, and no other byte is there to read (R133). -/
theorem read_cleared {m : Memory} (h : m.wf = true) (x : Nat) :
    (Memory.clearFrom (Memory.clearRange m 0 Config.memSize) Config.memSize).read x = 0x00 := by
  rw [Memory.read_clearFrom]
  split
  · rw [Memory.read_clearRange h (by rw [Nat.zero_add]), Nat.zero_add, if_pos ⟨Nat.zero_le x, by assumption⟩]
  · rfl

/-- Settles O35: the first period by `step_first`, those between by `run_clearingAt`, and the end by `run_clear`. -/
theorem powerOnClearTakes65536Periods : Obligations.PowerOnClearTakes65536Periods := by
  intro hot paper m hwf
  have h : ({ State.powerOn hot paper with mem := m } : State).OnlyClears := ⟨rfl, rfl, rfl, rfl, rfl⟩
  refine ⟨fun k hk => ?_, ?_⟩
  · cases k with
    | zero => exact ⟨_, rfl, rfl⟩
    | succ k =>
      have hrun := h.run_clearingAt (a := 1) k (by rw [Nat.add_comm]; exact hk)
      exact ⟨_, (run_succ (h.step_first rfl rfl) k).trans hrun, rfl⟩
  · obtain ⟨t, hrun, hready, hport, hirq, hmem⟩ := h.run_clear rfl rfl
    exact ⟨t, hrun, decide_eq_true hready, fun a => hmem ▸ read_cleared hwf a, hport, hirq⟩

end Sys2Proof.Machine
end

section
/-! What the operations over the label do to the access in progress: it stands, or its operation has ended and it is performed for
nothing (R129). -/

namespace Sys2Proof.Machine

/-! ### The access kept or orphaned (R129) -/

/-- The access whose operation has ended. -/
def Access.orphaned (a : Access) : Access := { a with live := false }

/-- The access in progress stands as it was, or its operation has ended. -/
def State.KeepsAccess (s t : State) : Prop :=
  t.arbiter.inProgress = s.arbiter.inProgress ∨ t.arbiter.inProgress = s.arbiter.inProgress.map Access.orphaned

theorem keepsAccess_of_eq {s t : State} (h : t.arbiter = s.arbiter) : s.KeepsAccess t := .inl (congrArg _ h)

theorem State.KeepsAccess.refl (s : State) : s.KeepsAccess s := .inl rfl

theorem State.KeepsAccess.trans {s t u : State} (h : s.KeepsAccess t) (k : t.KeepsAccess u) : s.KeepsAccess u := by
  rcases h with h | h <;> rcases k with k | k
  · exact .inl (k.trans h)
  · exact .inr (by rw [k, h])
  · exact .inr (k.trans h)
  · refine .inr ?_
    rw [k, h, Option.map_map]
    rfl

/-- A live access in progress was one before. -/
theorem State.KeepsAccess.accessFrom {s t : State} (h : s.KeepsAccess t) : s.accessFrom t := by
  intro a ha hlive
  rcases h with h | h <;> rw [h] at ha
  · exact ha
  · obtain ⟨b, -, rfl⟩ := Option.map_eq_some_iff.mp ha
    cases hlive

/-- The address of the access in progress stands (R124). -/
theorem State.KeepsAccess.accessLawful {s t : State} (h : s.KeepsAccess t) (hs : s.accessLawful) : t.accessLawful := by
  intro a ha
  rcases h with h | h <;> rw [h] at ha
  · exact hs a ha
  · obtain ⟨b, hb, rfl⟩ := Option.map_eq_some_iff.mp ha
    exact hs b hb

/-! ### The front job leaves; completion and abort (R13 to R21) -/

theorem orphan_keepsAccess (s : State) (c : Client) : s.KeepsAccess (s.orphan c) := by
  cases ha : s.arbiter.inProgress with
  | none => exact .inl (by simp [ha])
  | some a =>
    by_cases hc : a.client = c
    · exact .inr (by simp [ha, hc, Access.orphaned])
    · exact .inl (by simp [ha, hc])

theorem freeJob_keepsAccess (tag : Byte) (keep : Bool) (s : State) : s.KeepsAccess (freeJob tag keep s) := by
  unfold freeJob
  rcases abandonWork_cases tag ((s.freeJobBands tag keep).freePlacements tag) with ⟨h, -⟩ | ⟨h, -⟩ <;> rw [h]
  · exact .refl s
  · exact orphan_keepsAccess { (s.freeJobBands tag keep).freePlacements tag with renderer := .idle } _

theorem completeFront_keepsAccess (j : Job) (s : State) : s.KeepsAccess (completeFront j s) :=
  ((keepsAccess_of_eq (post_arbiter (reportJobDone j) s)).trans (freeJob_keepsAccess j.tag false _)).trans
    (keepsAccess_of_eq (by simp [completeFront]))

theorem completeIfDone_keepsAccess (s : State) : s.KeepsAccess (completeIfDone s) := by
  rcases completeIfDone_cases s with h | ⟨j, -, -, -, h⟩ <;> rw [h]
  · exact .refl s
  · exact completeFront_keepsAccess j s

theorem abortFrontAtOnce_keepsAccess (j : Job) (cause : AbortCause) (s : State) :
    s.KeepsAccess (abortFrontAtOnce j cause s) :=
  (freeJob_keepsAccess j.tag false s).trans (keepsAccess_of_eq (by simp [abortFrontAtOnce]))

theorem abortBack_keepsAccess (j : Job) (s : State) : s.KeepsAccess (abortBack j s) :=
  (freeJob_keepsAccess j.tag false s).trans (keepsAccess_of_eq (by simp [abortBack]))

theorem abortInFlight_keepsAccess (cause : AbortCause) (s : State) : s.KeepsAccess (abortInFlight cause s) := by
  unfold abortInFlight
  split
  · rename_i j _
    split
    · exact .refl s
    · exact (freeJob_keepsAccess j.tag true (s.updateFront (Job.abort cause))).trans (keepsAccess_of_eq (look_arbiter _))
  · exact .refl s

theorem endAbort_arbiter (s : State) : (endAbort s).arbiter = s.arbiter := by
  unfold endAbort
  split
  · split <;> simp
  · rfl

/-! ### A step consumed with no line in flight (R105 to R107, R113, R114, R117) -/

theorem settle_keepsAccess (s : State) : s.KeepsAccess (settle s) := keepsAccess_of_eq (settle_arbiter s)

theorem trailingStep_keepsAccess (s : State) : s.KeepsAccess (trailingStep s) :=
  (completeIfDone_keepsAccess s.clearHistory.advanceDone).trans (settle_keepsAccess _)

theorem startLine_keepsAccess (j : Job) (i : Nat) (s : State) : s.KeepsAccess (startLine j i s) := by
  unfold startLine
  split <;> exact .refl s

theorem underrunStep_keepsAccess (j : Job) (s : State) : s.KeepsAccess (underrunStep j s) := by
  unfold underrunStep
  split
  · exact ((keepsAccess_of_eq (post_arbiter _ s.clearHistory.advanceBlank)).trans (completeIfDone_keepsAccess _)).trans
      (settle_keepsAccess _)
  · exact (abortFrontAtOnce_keepsAccess j .underrun s).trans (settle_keepsAccess _)

theorem armedStep_keepsAccess (j : Job) (s : State) : s.KeepsAccess (armedStep j s) := by
  unfold armedStep
  split
  · exact trailingStep_keepsAccess s
  · split
    · exact startLine_keepsAccess j _ s
    · exact underrunStep_keepsAccess j s

theorem servedStep_keepsAccess (s : State) : s.KeepsAccess (servedStep s) := by
  unfold servedStep
  split
  · exact settle_keepsAccess s
  · split
    · exact armedStep_keepsAccess _ s
    · exact underrunStep_keepsAccess _ s

theorem serveLatch_keepsAccess (s : State) : s.KeepsAccess (serveLatch s) := by
  unfold serveLatch
  split
  · exact servedStep_keepsAccess { s with head := _ }
  · exact settle_keepsAccess (s.withMode .idle)

/-! ### The end of a line (R69, R110, R116, R120) -/

theorem endAbortOrComplete_keepsAccess (s : State) : s.KeepsAccess (endAbortOrComplete s) := by
  unfold endAbortOrComplete
  split
  · split
    · exact keepsAccess_of_eq (endAbort_arbiter s)
    · exact completeIfDone_keepsAccess s
  · exact .refl s

theorem endLine_keepsAccess (line : Line) (s : State) : s.KeepsAccess (endLine line s) :=
  ((keepsAccess_of_eq (releaseBand_arbiter line (printed line s))).trans (endAbortOrComplete_keepsAccess _)).trans
    (serveLatch_keepsAccess _)

theorem abandonLine_keepsAccess (s : State) : s.KeepsAccess (abandonLine s) :=
  ((keepsAccess_of_eq (endAbort_arbiter s)).trans (orphan_keepsAccess _ .fetch)).trans (serveLatch_keepsAccess _)

/-! ### Shifts, pulses and line steps (R105, R108 to R111, R118 to R120) -/

theorem startPulse_keepsAccess (p : Pass) (line : Line) (s : State) : s.KeepsAccess (startPulse p line s) := by
  unfold startPulse markStarted
  split
  · exact .refl s
  · exact keepsAccess_of_eq (post_arbiter _ { s with head := { s.head with started := true } })

theorem takeUpGroup_keepsAccess (p : Pass) (k : Nat) (line : Line) (s : State) :
    s.KeepsAccess (takeUpGroup p k line s) := by
  unfold takeUpGroup
  split
  · split
    · exact .refl s
    · exact startPulse_keepsAccess p _ s
  · split
    · exact .refl s
    · exact endLine_keepsAccess line s

theorem lineFetched_keepsAccess (line : Line) (s : State) : s.KeepsAccess (lineFetched line s) := by
  unfold lineFetched
  split
  · dsimp only
    split <;> exact .refl s
  · exact endLine_keepsAccess line s

theorem endFetch_keepsAccess (s : State) : s.KeepsAccess (endFetch s) := by
  unfold endFetch
  split
  · exact lineFetched_keepsAccess _ s
  · exact .refl s

theorem endShift_keepsAccess (s : State) : s.KeepsAccess (endShift s) := by
  unfold endShift
  split
  · exact takeUpGroup_keepsAccess _ 1 _ s
  · exact .refl s

theorem endPulse_keepsAccess (s : State) : s.KeepsAccess (endPulse s) := by
  unfold endPulse
  split
  · split
    · exact abandonLine_keepsAccess s
    · exact takeUpGroup_keepsAccess _ _ _ s
  · exact .refl s

theorem expireHold_keepsAccess (s : State) : s.KeepsAccess (expireHold s) := by
  unfold expireHold
  split
  · exact (abortInFlight_keepsAccess .headHot s).trans (abandonLine_keepsAccess _)
  · exact .refl s

theorem releaseHold_keepsAccess (s : State) : s.KeepsAccess (releaseHold s) := by
  unfold releaseHold
  split
  · exact startPulse_keepsAccess _ _ s
  · exact .refl s

theorem loseStep_keepsAccess (phase : LinePhase) (line : Line) (s : State) : s.KeepsAccess (loseStep phase line s) := by
  have h := abortInFlight_keepsAccess .stepLost
    { s with head := { s.head with latch := false, mode := .inFlight phase { line with ending := true } } }
  unfold loseStep
  dsimp only
  split
  · exact h
  · exact h.trans (abandonLine_keepsAccess _)

theorem lineStepOp_keepsAccess (s : State) : s.KeepsAccess (lineStepOp s) := by
  unfold lineStepOp
  split
  · split
    · exact .refl s
    · exact underrunStep_keepsAccess _ s
    · exact armedStep_keepsAccess _ s
    · split
      · exact .refl s
      · split
        · exact loseStep_keepsAccess _ _ s
        · exact .refl s
    · exact .refl s
  · exact .refl s

theorem timers_keepsAccess (s : State) : s.KeepsAccess (timers s) := by
  unfold timers
  split
  · split
    · exact endShift_keepsAccess s
    · exact .refl s
  · split
    · exact endPulse_keepsAccess s
    · exact .refl s
  · split
    · exact expireHold_keepsAccess s
    · exact .refl s
  · exact .refl s

/-! ### The completion of a band, and the job commands (R7 to R9, R16, R96) -/

theorem postAll_arbiter (rs : List Report) (s : State) : (postAll rs s).arbiter = s.arbiter := by
  unfold postAll
  induction rs generalizing s with
  | nil => rfl
  | cons r rs ih => exact (ih _).trans (post_arbiter r s)

theorem bandDone_keepsAccess (w : Work) (s : State) : s.KeepsAccess (bandDone w s) := by
  refine keepsAccess_of_eq ?_
  rw [bandDone_completed, settle_arbiter, look_arbiter, postAll_arbiter]
  rfl

theorem openJobAct_keepsAccess (p : OpenParams) (s : State) : s.KeepsAccess (openJobAct p s) := by
  unfold openJobAct
  split <;> exact keepsAccess_of_eq (by simp)

theorem commitAct_keepsAccess (j : Job) (row : Nat) (s : State) : s.KeepsAccess (commitAct j row s) := by
  unfold commitAct
  split
  · exact keepsAccess_of_eq (look_arbiter _)
  · exact .refl s

theorem abortJobAct_keepsAccess (j : Job) (s : State) : s.KeepsAccess (abortJobAct j s) := by
  unfold abortJobAct
  split
  · split
    · exact abortInFlight_keepsAccess .host s
    · exact (abortFrontAtOnce_keepsAccess j .host s).trans (settle_keepsAccess _)
  · exact abortBack_keepsAccess j s

end Sys2Proof.Machine
end

section
/-! Every row and every internal step keeps raster memory in its canonical form and the access in progress inside memory (R124). -/

namespace Sys2Proof.Machine

/-! ### What keeps memory's form and the access inside it -/

/-- The second state has memory in its canonical form if the first has, and its access in progress inside memory if the first
has. -/
structure State.KeepsMemory (s t : State) : Prop where
  wf : s.mem.wf = true → t.mem.wf = true
  access : s.accessLawful → t.accessLawful

theorem State.KeepsMemory.refl (s : State) : s.KeepsMemory s := ⟨id, id⟩

theorem State.KeepsMemory.trans {s t u : State} (h : s.KeepsMemory t) (k : t.KeepsMemory u) : s.KeepsMemory u :=
  ⟨k.wf ∘ h.wf, k.access ∘ h.access⟩

theorem keepsMemory_of_eq {s t : State} (hm : t.mem = s.mem) (ha : t.arbiter = s.arbiter) : s.KeepsMemory t :=
  ⟨fun h => hm ▸ h, (keepsAccess_of_eq ha).accessLawful⟩

/-- With no access in progress none lies outside memory. -/
theorem accessLawful_of_quiet {s : State} (h : s.quiet) : s.accessLawful := fun a ha => by
  rw [h] at ha
  cases ha

theorem LabelOnly.keepsMemory {s t : State} (hl : LabelOnly s t) (ha : s.KeepsAccess t) : s.KeepsMemory t :=
  ⟨fun h => hl.mem ▸ h, ha.accessLawful⟩

/-! ### The access performed, and the ends of the operations (R74, R96, R108, R128, R133) -/

theorem perform_keepsMemory (s : State) : s.KeepsMemory (perform s) :=
  ⟨perform_wf, fun _ => accessLawful_of_quiet (performed s).inProgress⟩

theorem takeReading_keepsMemory (s : State) : s.KeepsMemory (takeReading s) := by
  unfold takeReading
  split <;> exact keepsMemory_of_eq rfl rfl

theorem endClear_keepsMemory (a : Nat) (s : State) : s.KeepsMemory (endClear a s) :=
  ⟨fun h => Memory.wf_clearFrom h a, id⟩

theorem restServed_keepsMemory (left : Bool) (k : Rotating) (s : State) : s.KeepsMemory (s.restServed left k) := ⟨id, id⟩

theorem finishClear_keepsMemory (s : State) : s.KeepsMemory (finishClear s) := by
  unfold finishClear
  split
  · exact (endClear_keepsMemory _ s).trans (restServed_keepsMemory _ _ _)
  · exact .refl s

theorem endFetch_labelOnly (s : State) : LabelOnly s (endFetch s) := by
  unfold endFetch
  split
  · exact lineFetched_labelOnly _ s
  · exact .refl s

theorem endFetch_keepsMemory (s : State) : s.KeepsMemory (endFetch s) :=
  (endFetch_labelOnly s).keepsMemory (endFetch_keepsAccess s)

theorem finishBand_keepsMemory (s : State) : s.KeepsMemory (finishBand s) := by
  unfold finishBand
  split
  · rename_i w _
    exact .trans (t := { s with mem := composeRest s w }) ⟨wf_composeRest s w, id⟩
      ((bandDone_labelOnly w _).keepsMemory (bandDone_keepsAccess w _))
  · exact .refl s

theorem endProof_keepsMemory (s : State) : s.KeepsMemory (endProof s) := by
  unfold endProof
  split
  · exact keepsMemory_of_eq (look_mem _) (look_arbiter _)
  · exact .refl s

theorem dueClear_keepsMemory (s : State) : s.KeepsMemory (dueClear s) := by
  unfold dueClear
  split
  · split
    · exact endClear_keepsMemory _ s
    · exact .refl s
  · exact .refl s

theorem dueFetch_keepsMemory (s : State) : s.KeepsMemory (dueFetch s) := by
  unfold dueFetch
  split
  · split
    · exact endFetch_keepsMemory s
    · exact .refl s
  · exact .refl s

theorem dueBand_keepsMemory (s : State) : s.KeepsMemory (dueBand s) := by
  unfold dueBand
  split
  · exact finishBand_keepsMemory s
  · exact .refl s

theorem dueProof_keepsMemory (s : State) : s.KeepsMemory (dueProof s) := by
  unfold dueProof
  split
  · split
    · exact endProof_keepsMemory s
    · exact .refl s
  · exact .refl s

theorem due_keepsMemory (s : State) : s.KeepsMemory (due s) :=
  (((dueClear_keepsMemory s).trans (dueFetch_keepsMemory _)).trans (dueBand_keepsMemory _)).trans (dueProof_keepsMemory _)

@[simp] theorem regrant_mem (s : State) : (regrant s).mem = s.mem := by rw [regrant_arbiter]

/-! ### A CMD write (R164 to R168, R175) -/

theorem take_keepsMemory (code : Byte) (s : State) : s.KeepsMemory (take code s) := ⟨id, id⟩

theorem complete_keepsMemory (r : Reply) (s : State) : s.KeepsMemory (complete r s) := ⟨id, id⟩

theorem loadSegmentAct_keepsMemory (g : Segment) (s : State) : s.KeepsMemory (loadSegmentAct g s) := by
  unfold loadSegmentAct
  split <;> exact keepsMemory_of_eq rfl rfl

theorem stopUploadAct_keepsMemory (s : State) : s.KeepsMemory (stopUploadAct s) :=
  ⟨id, (orphan_keepsAccess { s with upload := ⟨none, none, []⟩ } (.rotating .upload)).accessLawful⟩

theorem commanded_keepsMemory {ps : List Byte} {s t : State} (ht : Commanded ps s t) : s.KeepsMemory t := by
  have completed : ∀ {u : State} (r : Reply), s.KeepsMemory u → s.KeepsMemory (complete r u) := fun r hk =>
    hk.trans (complete_keepsMemory r _)
  cases ht with
  | openJob p hc => exact completed _ ((openJobAct_labelOnly hc).keepsMemory (openJobAct_keepsAccess p s))
  | commit x _ => exact completed _ ((commitAct_labelOnly x.1 x.2 s).keepsMemory (commitAct_keepsAccess x.1 x.2 s))
  | closeJob j _ => exact completed _ (keepsMemory_of_eq (look_mem _) (look_arbiter _))
  | abortJob j _ => exact completed _ ((abortJobAct_labelOnly j s).keepsMemory (abortJobAct_keepsAccess j s))
  | loadSegment g => exact completed _ (loadSegmentAct_keepsMemory g s)
  | stopUpload answer => exact completed _ (stopUploadAct_keepsMemory s)
  | _ => exact keepsMemory_of_eq rfl rfl

/-- SOFT_RESET leaves the byte of the access in progress in memory and frees the arbiter (R134, R175). -/
theorem softReset_keepsMemory (s : State) : s.KeepsMemory (complete ⟨.ok, []⟩ (softResetAct s)) := by
  refine ⟨fun h => ?_, fun _ => accessLawful_of_quiet rfl⟩
  show s.landInProgress.mem.wf = true
  unfold State.landInProgress
  split
  · exact wf_land s _ h
  · exact h

theorem writeCmd_keepsMemory (code : Byte) (s : State) : s.KeepsMemory (writeCmd code s) := by
  have ht := writeCmd_written code s
  generalize writeCmd code s = t at ht
  cases ht with
  | held => exact .refl s
  | refused => exact keepsMemory_of_eq rfl rfl
  | softReset _ => exact (take_keepsMemory _ s).trans (softReset_keepsMemory _)
  | taken _ _ ht => exact (take_keepsMemory code s).trans (commanded_keepsMemory ht)

/-! ### The other accesses of the window, and the input pins (R140, R143, R154 to R173) -/

theorem paramWriteOp_keepsMemory (v : Byte) (s : State) : s.KeepsMemory (paramWriteOp v s) := by
  unfold paramWriteOp
  split
  · exact .refl s
  · split <;> exact keepsMemory_of_eq rfl rfl

theorem answerReadOp_keepsMemory (s : State) : s.KeepsMemory (answerReadOp s) := by
  unfold answerReadOp
  split
  · exact keepsMemory_of_eq rfl rfl
  · split <;> exact keepsMemory_of_eq rfl rfl

theorem dataWriteOp_keepsMemory (v : Byte) (s : State) : s.KeepsMemory (dataWriteOp v s) := by
  unfold dataWriteOp
  split
  · exact .refl s
  · split <;> exact keepsMemory_of_eq rfl rfl

theorem setCurrent_keepsMemory (g : Segment) (fifo : List Byte) (s : State) : s.KeepsMemory (setCurrent g fifo s) := by
  obtain ⟨up, rep, f, h⟩ := setCurrent_frame g fifo s
  rw [h]
  exact keepsMemory_of_eq rfl rfl

theorem dataReadOp_keepsMemory (s : State) : s.KeepsMemory (dataReadOp s) := by
  unfold dataReadOp
  split
  · exact keepsMemory_of_eq rfl rfl
  · split
    · rename_i v _ _ _
      split
      · exact .trans (t := { s with dataOut := v }) (keepsMemory_of_eq rfl rfl) (setCurrent_keepsMemory _ _ _)
      · exact keepsMemory_of_eq rfl rfl
    · exact keepsMemory_of_eq rfl rfl

theorem reportReadOp_keepsMemory (s : State) : s.KeepsMemory (reportReadOp s) := by
  unfold reportReadOp
  split <;> exact keepsMemory_of_eq rfl rfl

theorem irqPendWriteOp_keepsMemory (v : Byte) (s : State) : s.KeepsMemory (irqPendWriteOp v s) := by
  unfold irqPendWriteOp
  split <;> exact keepsMemory_of_eq rfl rfl

theorem irqEnWriteOp_keepsMemory (v : Byte) (s : State) : s.KeepsMemory (irqEnWriteOp v s) := by
  unfold irqEnWriteOp
  split <;> exact keepsMemory_of_eq rfl rfl

theorem rowDoneLowReadOp_keepsMemory (s : State) : s.KeepsMemory (rowDoneLowReadOp s) := by
  unfold rowDoneLowReadOp
  split <;> exact keepsMemory_of_eq rfl rfl

theorem stickyWriteOp_keepsMemory (v : Byte) (s : State) : s.KeepsMemory (stickyWriteOp v s) := by
  unfold stickyWriteOp
  split <;> exact keepsMemory_of_eq rfl rfl

theorem writeRegister_keepsMemory (offset : BitVec 4) (v : Byte) (s : State) : s.KeepsMemory (writeRegister offset v s) := by
  unfold writeRegister
  split
  · exact writeCmd_keepsMemory v s
  · exact paramWriteOp_keepsMemory v s
  · exact dataWriteOp_keepsMemory v s
  · exact irqPendWriteOp_keepsMemory v s
  · exact irqEnWriteOp_keepsMemory v s
  · exact stickyWriteOp_keepsMemory v s
  · exact .refl s

theorem resetReleasedOp_keepsMemory (s : State) : s.KeepsMemory (resetReleasedOp s) := by
  unfold resetReleasedOp
  split
  · exact ⟨id, fun _ => accessLawful_of_quiet rfl⟩
  · exact .refl s

theorem paperChangeOp_keepsMemory (b : Bool) (s : State) : s.KeepsMemory (paperChangeOp b s) := by
  unfold paperChangeOp
  dsimp only
  split
  · exact keepsMemory_of_eq rfl rfl
  · split <;> exact keepsMemory_of_eq rfl rfl

theorem hotChangeOp_keepsMemory (b : Bool) (s : State) : s.KeepsMemory (hotChangeOp b s) := by
  have hlatched : s.KeepsMemory ({ s with hot := b } : State).latchInput := keepsMemory_of_eq rfl rfl
  unfold hotChangeOp
  dsimp only
  split
  · exact keepsMemory_of_eq rfl rfl
  · split
    · exact keepsMemory_of_eq rfl rfl
    · split
      · exact hlatched
      · exact hlatched.trans ((releaseHold_labelOnly _).keepsMemory (releaseHold_keepsAccess _))

/-! ### The upload channel's own accesses (R141, R142) -/

theorem storeNow_keepsMemory (g : Segment) (v : Byte) (s : State) : s.KeepsMemory (storeNow g v s) := by
  refine .trans (t := (s.land ⟨.rotating .upload, g.cursor, some v, true⟩).served .upload) ⟨wf_land s _, id⟩ ?_
  exact setCurrent_keepsMemory _ _ _

theorem prefetchNow_keepsMemory (g : Segment) (s : State) : s.KeepsMemory (prefetchNow g s) := ⟨id, id⟩

/-! ### Every row -/

theorem exec_keepsMemory {i : Instr} {s t : State} (h : exec i s = .next t) : s.KeepsMemory t := by
  have next : ∀ {u : State}, (Host.Outcome.next u : Host.Outcome State Fault Refusal) = .next t → s.KeepsMemory u →
      s.KeepsMemory t := fun h hk => Host.Outcome.next.inj h ▸ hk
  have fault : (Host.Outcome.fault Fault.addressOutsideMemory : Host.Outcome State Fault Refusal) = .next t →
      s.KeepsMemory t := fun h => by cases h
  have hp := perform_keepsMemory s
  cases i with
  | softReset | setHead | setBands | defineGlyph | restoreGlyph | openJob | place | withdraw | commit | closeJob | abortJob
  | queryJob | loadSegment | stopUpload | proof => exact next h (writeCmd_keepsMemory _ s)
  | unknownCommand code => exact next h (writeCmd_keepsMemory code s)
  | cmdWriteRefused code => exact next h (writeCmd_keepsMemory code s)
  | paramWrite v => exact next h (paramWriteOp_keepsMemory v s)
  | answerRead => exact next h (answerReadOp_keepsMemory s)
  | dataWrite v => exact next h (dataWriteOp_keepsMemory v s)
  | dataRead => exact next h (dataReadOp_keepsMemory s)
  | reportRead => exact next h (reportReadOp_keepsMemory s)
  | irqPendWrite v => exact next h (irqPendWriteOp_keepsMemory v s)
  | irqEnWrite v => exact next h (irqEnWriteOp_keepsMemory v s)
  | rowDoneLowRead => exact next h (rowDoneLowReadOp_keepsMemory s)
  | stickyWrite v => exact next h (stickyWriteOp_keepsMemory v s)
  | registerWriteDiscarded offset v => exact next h (writeRegister_keepsMemory offset v s)
  | resetAsserted => exact next h ⟨id, fun _ => accessLawful_of_quiet rfl⟩
  | resetReleased => exact next h (resetReleasedOp_keepsMemory s)
  | lineStep => exact next h ((lineStepOp_labelOnly s).keepsMemory (lineStepOp_keepsAccess s))
  | hotChange b => exact next h (hotChangeOp_keepsMemory b s)
  | paperChange b => exact next h (paperChangeOp_keepsMemory b s)
  | shiftEnd => exact next h ((endShift_labelOnly s).keepsMemory (endShift_keepsAccess s))
  | strobePulseEnd => exact next h ((endPulse_labelOnly s).keepsMemory (endPulse_keepsAccess s))
  | hotHoldExpire => exact next h ((expireHold_labelOnly s).keepsMemory (expireHold_keepsAccess s))
  | powerOnClearComplete =>
    simp only [exec, execPowerOnClearComplete] at h
    split at h
    · split at h
      · exact next h (hp.trans (finishClear_keepsMemory _))
      · exact fault h
    · exact next h (.refl s)
  | lineFetchEnd =>
    simp only [exec, execLineFetchEnd] at h
    split at h
    · split at h
      · exact next h (hp.trans (endFetch_keepsMemory _))
      · exact fault h
    · exact next h (.refl s)
  | bandComplete =>
    simp only [exec, execBandComplete] at h
    split at h
    · split at h
      · exact next h ((hp.trans (restServed_keepsMemory _ _ _)).trans (finishBand_keepsMemory _))
      · exact fault h
    · exact next h (.refl s)
  | proofCopyComplete =>
    simp only [exec, execProofCopyComplete] at h
    split at h
    · split at h
      · exact next h ((hp.trans (restServed_keepsMemory _ _ _)).trans (endProof_keepsMemory _))
      · exact fault h
    · exact next h (.refl s)
  | uploadStore =>
    simp only [exec, execUploadStore] at h
    split at h
    · split at h
      · split at h
        · refine next h ?_
          split
          · exact hp
          · exact hp.trans (storeNow_keepsMemory _ _ _)
        · exact fault h
      · exact next h (.refl s)
    · exact next h (.refl s)
  | uploadPrefetch =>
    simp only [exec, execUploadPrefetch] at h
    split at h
    · split at h
      · split at h
        · refine next h ?_
          split
          · exact hp
          · exact hp.trans (prefetchNow_keepsMemory _ _)
        · exact fault h
      · exact next h (.refl s)
    · exact next h (.refl s)

/-! ### Every step -/

/-- A period before its access is performed: the timers, and a grant. -/
theorem grant_timers_labelOnly (s : State) : LabelOnly s (grant (timers s)) :=
  (timers_labelOnly s).trans (grant_labelOnly _)

theorem regrant_due_wf {s : State} (h : s.mem.wf = true) : (regrant (due s)).mem.wf = true := by
  rw [regrant_mem]
  exact (due_keepsMemory s).wf h

/-- Every step keeps memory in its canonical form (R124, R135). -/
theorem step_wf {s t : State} (h : s.mem.wf = true) (hstep : step s = .next t) : t.mem.wf = true := by
  unfold step at hstep
  cases hq : s.pending with
  | cons i rest =>
    rw [hq] at hstep
    exact (exec_keepsMemory hstep).wf h
  | nil =>
    rw [hq] at hstep
    simp only [tick] at hstep
    split at hstep
    · exact Host.Outcome.next.inj hstep ▸ h
    · split at hstep
      · exact Host.Outcome.next.inj hstep ▸ regrant_due_wf ((takeReading_keepsMemory s).wf h)
      · split at hstep
        · refine Host.Outcome.next.inj hstep ▸ regrant_due_wf (perform_wf ?_)
          rw [(grant_timers_labelOnly s).mem]
          exact h
        · cases hstep

end Sys2Proof.Machine
end

section
/-! Every address that a lawful state forms lies inside memory (R124): the bands, the sources of a placement, and the requests of
the fetch, the renderer and the command port. -/

namespace Sys2Proof.Machine

/-! ### The lines of the label (R60, R69, R108) -/

/-- The line in flight lies inside memory (R108). -/
theorem flight_inside {s : State} {line : Line} (h : s.Table) (hline : line.OnTrack s) :
    line.addr + s.headCfg.dots / 8 ≤ 65536 := by
  obtain ⟨j, hj, -, hrow, -⟩ := hline.job
  obtain ⟨b, hb, hst, haddr⟩ := hline.band
  obtain ⟨-, -, k, hk, -, hrows, -, hprinting⟩ := h.bands _ b hb
  obtain ⟨hfront, -⟩ := hprinting hst
  obtain ⟨j', hj', htag⟩ := isFront_iff.mp hfront
  obtain rfl : j' = j := Option.some.inj (hj'.symm.trans hj)
  obtain rfl : k = j' := Option.some.inj (hk.symm.trans (htag ▸ find_front hj'))
  rw [haddr, hrow]
  exact lineAddr_inside h hb (hrows (by simp [hst])).2

/-- The band in work lies inside memory (R60, R85). -/
theorem work_inside {s : State} {w : Work} (h : s.Table) (hw : w ∈ s.renderer.work) :
    s.bandAddr w.band + w.lineBytes s ≤ Config.memSize := by
  obtain ⟨-, -, -, -, -, -, hcount, -⟩ := work_band h hw
  have hlast := lineAddr_inside h (h.work_record hw) (row := w.first + (w.count - 1)) (by dsimp only; omega)
  have hsplit : w.lineBytes s = (w.first + (w.count - 1) - w.first) * s.headCfg.lineBytes + s.headCfg.dots / 8 := by
    show w.count * s.headCfg.lineBytes = _ * s.headCfg.lineBytes + s.headCfg.lineBytes
    rw [Nat.add_sub_cancel_left, ← Nat.succ_mul, Nat.succ_eq_add_one, Nat.sub_add_cancel hcount]
  rw [hsplit, ← Nat.add_assoc]
  exact hlast

/-! ### The sources of a placement (R30, R50, R89, R90) -/

/-- The bytes of a row lie in the footprint of so many rows. -/
theorem row_in_footprint {base row height stride width i : Nat} (hrow : row < height) (hi : i < width) :
    base + row * stride + i < base + (height - 1) * stride + width := by
  have h : row * stride ≤ (height - 1) * stride := Nat.mul_le_mul_right _ (by omega)
  omega

/-- A bitmap byte of a laid glyph lies in the glyph's footprint, and so inside memory (R50). -/
theorem laid_sources_inside {l : Laid} {limit row a : Nat} (hl : l.desc.inside = true) (ha : a ∈ l.sources limit row) :
    a < Config.memSize := by
  cases hd : l.desc with
  | ram g =>
    rw [hd] at hl
    have hin : g.base + g.footprint ≤ Config.memSize := of_decide_eq_true hl
    simp only [Laid.sources, hd] at ha
    split at ha
    · rename_i hrow
      obtain ⟨i, hi, rfl⟩ := List.mem_map.mp ha
      have hdrawn : l.drawnWidth limit ≤ g.width := by
        rw [Laid.drawnWidth, hd]
        exact Nat.min_le_left _ _
      have hi' : i < ceil8 g.width := by
        have := List.mem_range.mp hi
        unfold ceil8 at *
        omega
      have hfoot : (g.height - 1) * ceil8 g.width + ceil8 g.width = g.footprint := by
        rw [← Nat.succ_mul, Nat.succ_eq_add_one, Nat.sub_add_cancel (by omega)]
        rfl
      have := row_in_footprint (base := g.base) (stride := ceil8 g.width) hrow hi'
      omega
    · cases ha
  | _ =>
    simp only [Laid.sources, hd] at ha
    cases ha

/-- A source byte of a row of a copy lies inside memory (R30, R50). -/
theorem sources_inside {p : Placement} {laid : List Laid} {dots row a : Nat} (hp : p.sourceInside = true)
    (hlaid : (laid.all fun l => l.desc.inside) = true) (hrow : row < p.height)
    (ha : a ∈ p.sources laid (p.limit dots) row) : a < Config.memSize := by
  cases hk : p.kind with
  | glyphs spacing codes =>
    simp only [Placement.sources, hk, List.mem_flatMap] at ha
    obtain ⟨l, hl, ha⟩ := ha
    exact laid_sources_inside (List.all_eq_true.mp hlaid l hl) ha
  | image source stride =>
    simp only [Placement.sources, hk, List.mem_map, List.mem_range] at ha
    obtain ⟨i, hi, rfl⟩ := ha
    simp only [Placement.sourceInside, hk, decide_eq_true_eq] at hp
    have hi' : i < ceil8 p.width := by
      unfold ceil8 Placement.limit at *
      omega
    exact Nat.lt_of_lt_of_le (row_in_footprint hrow hi') hp
  | bar =>
    simp only [Placement.sources, hk] at ha
    cases ha

/-! ### The requests (R74, R85, R87, R108, R133) -/

section
variable {s : State} (h : s.labelLawful)
include h

/-- A line is a whole number of bytes (R99). -/
theorem dots_mod_eight : s.headCfg.dots % 8 = 0 := by
  obtain ⟨⟨-, -, -, -, -, hdots, -⟩, -⟩ := h.config
  exact Nat.mod_eq_zero_of_dvd ((Nat.dvd_mul_right 8 _).trans (Nat.dvd_of_mod_eq_zero hdots))

theorem fetchRequest_inside {r : Request} (hr : fetchRequest s = some r) : r.addr < Config.memSize := by
  cases hm : s.head.mode with
  | inFlight phase line =>
    cases phase with
    | fetch =>
      have hl := label_of_labelLawful h
      have hline := flight_inside hl.table (flight_onTrack hl hm)
      simp only [fetchRequest, hm] at hr
      split at hr
      · rename_i hlt
        cases hr
        exact Nat.lt_of_lt_of_le (Nat.add_lt_add_left hlt _) hline
      · cases hr
    | _ =>
      simp only [fetchRequest, hm] at hr
      cases hr
  | _ =>
    simp only [fetchRequest, hm] at hr
    cases hr

theorem portRequest_inside {r : Request} (hr : portRequest s = some r) : r.addr < Config.memSize := by
  unfold portRequest at hr
  split at hr
  · split at hr
    · cases hr
      assumption
    · cases hr
  · split at hr
    · rename_i c hc
      split at hr
      · rename_i hlt
        cases hr
        exact Nat.lt_of_lt_of_le (Nat.add_lt_add_left hlt _) (h.proof c hc)
      · cases hr
    · cases hr
  · cases hr

/-- The byte of a line that a copy touches is one of the line's (R87). -/
theorem byte_in_line {p : Placement} {col : Nat} (hcol : col < p.byteCount (p.limit s.headCfg.dots)) :
    p.firstByte + col < s.headCfg.lineBytes := by
  have h8 := dots_mod_eight h
  have hpos := (table_of_labelLawful h).lineBytes_pos
  unfold Placement.byteCount Placement.firstByte Placement.limit HeadConfig.lineBytes at *
  omega

theorem rendererRequest_inside {r : Request} (hr : rendererRequest s = some r) : r.addr < Config.memSize := by
  cases hs : s.renderer with
  | rendering w =>
    have ht := table_of_labelLawful h
    have hw : w ∈ s.renderer.work := by rw [hs]; rfl
    have hband := work_inside ht hw
    obtain ⟨⟨-, hcursor⟩, hlaid, -⟩ := h.composed w hw
    unfold Work.cursorInRange at hcursor
    cases hc : w.cursor with
    | clearing n =>
      rw [hc] at hcursor
      obtain ⟨m, rfl⟩ : ∃ m, n = m + 1 := Nat.exists_eq_add_of_le' hcursor.1
      simp only [rendererRequest, hs, hc, Option.some.injEq] at hr
      subst hr
      dsimp only at hcursor ⊢
      omega
    | drawing laid row src col held =>
      rw [hc] at hcursor hlaid
      obtain ⟨⟨c, p⟩, hx, hfirst, hlast, hcol, -⟩ := hcursor
      simp only [rendererRequest, hs, hc, show w.current s.placements = some (c, p) from hx] at hr
      dsimp only at hfirst hlast hcol
      obtain ⟨-, -, hfind⟩ := current_eq_some hx
      obtain ⟨-, -, -, -, hsource, -⟩ := h.placements.2 p (findPlacement_some hfind).1
      unfold Work.firstRow at hfirst
      unfold Work.endRow at hlast
      obtain ⟨-, hline⟩ := line_in_band s w (row := row) (by omega) (by omega)
      have hbyte := byte_in_line h hcol
      split at hr
      · rename_i a ha
        cases hr
        exact sources_inside hsource hlaid (by omega) (List.mem_of_getElem? ha)
      · split at hr <;>
        · cases hr
          dsimp only
          omega
    | _ =>
      simp only [rendererRequest, hs, hc] at hr
      cases hr
  | _ =>
    simp only [rendererRequest, hs] at hr
    cases hr

/-- Every address the rest of the composition forms lies inside memory (R124). -/
theorem composeInside_of_lawful {w : Work} (hw : w ∈ s.renderer.work) : s.composeInside w = true := by
  obtain ⟨-, hinside, htodo⟩ := h.composed w hw
  have hband := work_inside (table_of_labelLawful h) hw
  simp only [State.composeInside, hband, hinside, decide_true, Bool.and_self, Bool.true_and, List.all_eq_true]
  intro c hc
  obtain ⟨p, hfind, -⟩ := htodo c hc
  obtain ⟨-, -, -, -, hsource, -⟩ := h.placements.2 p (findPlacement_some hfind).1
  rw [show findPlacement s.placements c.handle = some p from hfind]
  dsimp only
  cases hk : p.kind with
  | glyphs spacing codes =>
    simp only [State.placementInside, hk, List.all_eq_true]
    exact fun code _ => glyph_inside h.glyphs code
  | image source stride =>
    simp only [Placement.sourceInside, hk] at hsource
    simp only [State.placementInside, hk]
    exact hsource
  | bar => simp only [State.placementInside, hk]

end

end Sys2Proof.Machine
end

section
/-! The upload channel's cursor lies inside memory at every access, and an access performed keeps the channel's law (R136, R137,
R141, R142, R144). -/

namespace Sys2Proof.Machine

/-! ### The cursor of a segment (R137, R141) -/

/-- While bytes of the segment are left the cursor lies in its span, and so inside memory (R138). -/
theorem cursor_inside {g : Segment} {m : Nat} (h : g.lawful) (hc : g.cursorAt m) (hm : m < g.rows * g.rowBytes) :
    g.cursor < Config.memSize := by
  obtain ⟨hrow, -, -, -, -, -, -, -, -, hspan⟩ := h
  obtain ⟨-, hcursor⟩ := hc
  have hlast : m / g.rowBytes < g.rows := Nat.div_lt_of_lt_mul (Nat.mul_comm g.rows _ ▸ hm)
  have hin := row_in_footprint (base := g.address) (stride := g.stride) hlast (Nat.mod_lt m hrow)
  rw [hcursor]
  exact Nat.lt_of_lt_of_le hin hspan

/-- The cursor advanced stands at the next byte of the segment (R141). -/
theorem advance_cursorAt {g : Segment} {m : Nat} (hrow : 1 ≤ g.rowBytes) (hc : g.cursorAt m) : g.advance.cursorAt (m + 1) := by
  obtain ⟨hpos, hcursor⟩ := hc
  have hm : m = m / g.rowBytes * g.rowBytes + m % g.rowBytes := by rw [Nat.mul_comm]; exact (Nat.div_add_mod m _).symm
  unfold Segment.cursorAt Segment.advance
  split
  · rename_i hgoing
    rw [hpos] at hgoing
    have hsplit : m + 1 = m / g.rowBytes * g.rowBytes + (m % g.rowBytes + 1) := by omega
    have hdiv : (m + 1) / g.rowBytes = m / g.rowBytes := by
      rw [hsplit, Nat.mul_comm, Nat.mul_add_div hrow, Nat.div_eq_of_lt hgoing, Nat.add_zero]
    have hmod : (m + 1) % g.rowBytes = m % g.rowBytes + 1 := by
      rw [hsplit, Nat.mul_comm, Nat.mul_add_mod, Nat.mod_eq_of_lt hgoing]
    dsimp only
    rw [hdiv, hmod, hpos, hcursor]
    exact ⟨rfl, rfl⟩
  · rename_i hend
    have hlt := Nat.mod_lt m hrow
    have hsplit : m + 1 = (m / g.rowBytes + 1) * g.rowBytes := by
      rw [Nat.succ_mul]
      omega
    dsimp only
    rw [hsplit, Nat.mul_mod_left, Nat.mul_div_cancel _ hrow, hcursor, hpos, Nat.succ_mul]
    exact ⟨rfl, by omega⟩

/-- The record of a segment whose cursor has advanced (R137). -/
theorem advance_lawful {g : Segment} (h : g.lawful) : g.advance.lawful := by
  obtain ⟨hrow, hrow', hrows, hrows', hstride, hstride', -, hleft, htotal, hspan⟩ := h
  simp only [Segment.lawful, advance_rowBytes, advance_rows, advance_stride, advance_address, advance_bytesLeft]
  exact ⟨hrow, hrow', hrows, hrows', hstride, hstride', advance_position hrow, hleft, htotal, hspan⟩

/-! ### The law of the channel's slots and FIFO (R136, R137, R140) -/

/-- The byte of its segment at which the cursor stands: the next to store, or the next to prefetch (R141, R142). -/
def Segment.reached (g : Segment) (held : Nat) : Nat :=
  g.rows * g.rowBytes - g.bytesLeft + if g.direction = .dirOut then held else 0

/-- The law of the upload channel but for its access in progress. -/
structure Upload.Lawful (u : Upload) : Prop where
  cur : ∀ g ∈ u.cur, g.lawful ∧ u.fifo.length ≤ g.bytesLeft ∧ g.cursorAt (g.reached u.fifo.length)
  nxt : ∀ g ∈ u.nxt, g.lawful ∧ g.cursorAt 0 ∧ g.bytesLeft = g.rows * g.rowBytes
  idle : u.cur = none → u.nxt = none ∧ u.fifo = []
  depth : u.fifo.length ≤ 8

theorem uploadLawful_iff (s : State) : s.uploadLawful ↔ s.upload.Lawful ∧
    ∀ a ∈ s.arbiter.inProgress, a.live = true → a.client = .rotating .upload → (uploadRequest s).isSome = true :=
  ⟨fun ⟨h1, h2, h3, h4, h5⟩ => ⟨⟨h1, h2, h3, h4⟩, h5⟩, fun ⟨⟨h1, h2, h3, h4⟩, h5⟩ => ⟨h1, h2, h3, h4, h5⟩⟩

theorem uploadRequest_congr {s t : State} (h : t.upload = s.upload) : uploadRequest t = uploadRequest s := by
  unfold uploadRequest
  rw [h]

theorem wantsPrefetch_iff {u : Upload} {g : Segment} (hg : u.cur = some g) :
    u.wantsPrefetch = true ↔ g.direction = .dirOut ∧ u.fifo.length < 8 ∧ u.fifo.length < g.bytesLeft := by
  simp only [Upload.wantsPrefetch, hg, decide_eq_true_eq, Config.fifoDepth]

/-- What the channel asks for: the store of the FIFO's head for an IN segment, a prefetch for an OUT segment (R141, R142). -/
theorem uploadRequest_cases {s : State} {r : Request} (h : uploadRequest s = some r) :
    ∃ g, s.upload.cur = some g ∧ r.addr = g.cursor ∧
      ((g.direction = .dirIn ∧ s.upload.fifo ≠ []) ∨
        (g.direction = .dirOut ∧ s.upload.fifo.length < 8 ∧ s.upload.fifo.length < g.bytesLeft)) := by
  unfold uploadRequest at h
  split at h
  · rename_i g hg
    refine ⟨g, hg, ?_⟩
    split at h
    · rename_i hd
      split at h
      · rename_i hf
        cases h
        exact ⟨rfl, .inl ⟨hd, by simp [hf]⟩⟩
      · cases h
    · split at h
      · rename_i hw
        cases h
        exact ⟨rfl, .inr ((wantsPrefetch_iff hg).mp hw)⟩
      · cases h
  · cases h

/-- While a store or a prefetch is to be made the cursor lies inside memory (R124). -/
theorem current_cursor_inside {u : Upload} {g : Segment} (h : u.Lawful) (hg : u.cur = some g)
    (hr : g.direction = .dirIn ∨ u.fifo.length < g.bytesLeft) : g.cursor < Config.memSize := by
  obtain ⟨hlaw, -, hcursor⟩ := h.cur g hg
  refine cursor_inside hlaw hcursor ?_
  obtain ⟨-, -, -, -, -, -, -, hleft, htotal, -⟩ := hlaw
  unfold Segment.reached
  split
  · rename_i hd
    rcases hr with hin | hlt
    · rw [hd] at hin
      cases hin
    · omega
  · omega

theorem uploadRequest_inside {s : State} (h : s.upload.Lawful) {r : Request} (hr : uploadRequest s = some r) :
    r.addr < Config.memSize := by
  obtain ⟨g, hg, haddr, hcase⟩ := uploadRequest_cases hr
  rw [haddr]
  exact current_cursor_inside h hg (hcase.imp (fun hc => hc.1) fun hc => hc.2.2)

/-! ### The channel's access performed (R141, R142, R144) -/

/-- A new record of the current segment, its end included (R144). -/
theorem setCurrent_upload (g : Segment) (fifo : List Byte) (s : State) :
    (setCurrent g fifo s).upload =
      if g.bytesLeft = 0 then ⟨s.upload.nxt, none, fifo⟩ else ⟨some g, s.upload.nxt, fifo⟩ := by
  unfold setCurrent
  dsimp only
  split
  · rw [(endSegment_upload g _).1]
  · rfl

/-- The channel after the end of its current segment, its FIFO empty (R144). -/
theorem Upload.Lawful.ended {u : Upload} (h : u.Lawful) : (Upload.mk u.nxt none []).Lawful where
  cur := fun g hg => by
    obtain ⟨hlaw, hcursor, hleft⟩ := h.nxt g hg
    refine ⟨hlaw, Nat.zero_le _, ?_⟩
    have hzero : g.reached 0 = 0 := by
      unfold Segment.reached
      rw [hleft, Nat.sub_self, ite_self]
    exact hzero ▸ hcursor
  nxt := fun g hg => (by cases hg)
  idle := fun _ => ⟨rfl, rfl⟩
  depth := Nat.zero_le _

/-- A store performed keeps the law (R141, R144). -/
theorem storePerformed_lawful {s : State} {g : Segment} (h : s.upload.Lawful) (hg : s.upload.cur = some g)
    (hd : g.direction = .dirIn) : (storePerformed g s).upload.Lawful := by
  obtain ⟨hlaw, hfifo, hcursor⟩ := h.cur g hg
  obtain ⟨hrow, hrow', hrows, hrows', hstride, hstride', hpos, -, -, hspan⟩ := advance_lawful hlaw
  obtain ⟨hbytes, -, -, -, -, -, -, hleft, htotal, -⟩ := hlaw
  have hnext := advance_cursorAt hbytes hcursor
  unfold storePerformed
  rw [setCurrent_upload]
  split
  · rename_i hlast
    dsimp only at hlast
    have hempty : s.upload.fifo.tail = [] := List.length_eq_zero_iff.mp (by rw [List.length_tail]; omega)
    rw [hempty]
    exact h.ended
  · rename_i hgoing
    dsimp only at hgoing
    refine ⟨fun k hk => ?_, h.nxt, fun hn => (by cases hn), ?_⟩
    · obtain rfl := Option.some.inj hk
      refine ⟨⟨hrow, hrow', hrows, hrows', hstride, hstride', hpos, Nat.pos_of_ne_zero hgoing, ?_, hspan⟩, ?_, ?_⟩
      · dsimp only
        rw [advance_rows, advance_rowBytes]
        omega
      · rw [List.length_tail]
        dsimp only
        omega
      · have hreached : Segment.reached { g.advance with bytesLeft := g.bytesLeft - 1 } s.upload.fifo.tail.length =
            g.reached s.upload.fifo.length + 1 := by
          simp only [Segment.reached, advance_rows, advance_rowBytes, advance_direction, hd, reduceCtorEq, if_false]
          omega
        dsimp only
        rw [hreached]
        exact hnext
    · have := h.depth
      rw [List.length_tail]
      omega

/-- A prefetch performed keeps the law (R142). -/
theorem prefetchPerformed_lawful {s : State} {g : Segment} (h : s.upload.Lawful) (hg : s.upload.cur = some g)
    (hd : g.direction = .dirOut) (hroom : s.upload.fifo.length < 8 ∧ s.upload.fifo.length < g.bytesLeft) (v : Byte) :
    (prefetchPerformed g v s).upload.Lawful := by
  obtain ⟨hlaw, -, hcursor⟩ := h.cur g hg
  have hnext : g.advance.cursorAt (g.reached s.upload.fifo.length + 1) := by
    obtain ⟨hrow, -⟩ := hlaw
    exact advance_cursorAt hrow hcursor
  have hlength : (s.upload.fifo ++ [v]).length = s.upload.fifo.length + 1 := by
    rw [List.length_append, List.length_singleton]
  refine ⟨fun k hk => ?_, h.nxt, fun hn => (by cases hn), ?_⟩
  · obtain rfl := Option.some.inj hk
    have hreached : g.advance.reached (s.upload.fifo.length + 1) = g.reached s.upload.fifo.length + 1 := by
      simp only [Segment.reached, advance_rows, advance_rowBytes, advance_bytesLeft, advance_direction, hd, if_true]
      omega
    refine ⟨advance_lawful hlaw, ?_, ?_⟩
    · rw [advance_bytesLeft]
      show (s.upload.fifo ++ [v]).length ≤ _
      omega
    · show g.advance.cursorAt (g.advance.reached (s.upload.fifo ++ [v]).length)
      rw [hlength, hreached]
      exact hnext
  · show (s.upload.fifo ++ [v]).length ≤ 8
    omega

/-- Only the channel's own access moves the channel (R128). -/
theorem progress_upload {c : Client} (hc : c ≠ .rotating .upload) (v : Byte) (s : State) :
    (progress c v s).upload = s.upload := by
  cases c with
  | fetch =>
    unfold progress
    dsimp only
    split <;> rfl
  | rotating k =>
    cases k with
    | renderer =>
      unfold progress
      dsimp only
      split <;> rfl
    | upload => exact absurd rfl hc
    | port =>
      unfold progress
      dsimp only
      split
      · rfl
      · split <;> rfl

/-- The channel's own access moves it as its request says (R141, R142). -/
theorem progress_upload_lawful {s : State} (h : s.upload.Lawful) (hr : (uploadRequest s).isSome = true) (v : Byte) :
    (progress (.rotating .upload) v s).upload.Lawful := by
  obtain ⟨r, hr⟩ := Option.isSome_iff_exists.mp hr
  obtain ⟨g, hg, -, ⟨hd, -⟩ | ⟨hd, hroom⟩⟩ := uploadRequest_cases hr
  · simp only [progress, hg, hd]
    exact storePerformed_lawful h hg hd
  · simp only [progress, hg, hd]
    exact prefetchPerformed_lawful h hg hd hroom v

@[simp] theorem land_upload (s : State) (a : Access) : (s.land a).upload = s.upload := by
  unfold State.land
  split <;> rfl

/-- An access performed keeps the law of the channel (R128, R129). -/
theorem perform_uploadLawful {s : State} (h : s.uploadLawful) : (perform s).uploadLawful := by
  obtain ⟨hu, hlive⟩ := (uploadLawful_iff s).mp h
  refine (uploadLawful_iff _).mpr ⟨?_, fun a ha => ?_⟩
  · cases ha : s.arbiter.inProgress with
    | none => rwa [perform_quiet ha]
    | some a =>
      have hland : (({ s with arbiter := { s.arbiter with inProgress := none } } : State).land a).upload = s.upload :=
        land_upload _ a
      simp only [perform, ha]
      split
      · rename_i hl
        by_cases hc : a.client = .rotating .upload
        · rw [hc]
          refine progress_upload_lawful (by rwa [hland]) ?_ _
          rw [uploadRequest_congr hland]
          exact hlive a ha hl hc
        · rw [progress_upload hc, hland]
          exact hu
      · rw [hland]
        exact hu
  · rw [(performed s).inProgress] at ha
    cases ha

end Sys2Proof.Machine
end

section
/-! In a lawful state every step goes on, and leaves the access in progress inside memory (R124, log entry 14). -/

namespace Sys2Proof.Machine

/-! ### The rows that reach memory -/

theorem accessInside_of_lawful {s : State} (h : s.accessLawful) : s.accessInside = true := by
  unfold State.accessInside
  split
  · rename_i a ha
    exact decide_eq_true (h a ha)
  · rfl

/-- The channel's own access in progress is one the channel asks for. -/
theorem uploadRequest_of_inProgress {s : State} (hu : s.uploadLawful) (h : s.uploadInProgress = true) :
    (uploadRequest s).isSome = true := by
  unfold State.uploadInProgress at h
  split at h
  · rename_i a ha
    simp only [Bool.and_eq_true, decide_eq_true_eq] at h
    exact ((uploadLawful_iff s).mp hu).2 a ha h.2 h.1
  · cases h

section
variable {s : State} (ha : s.accessLawful)
include ha

theorem powerOnClearComplete_goesOn : ∃ t, exec .powerOnClearComplete s = .next t := by
  simp only [exec, execPowerOnClearComplete, accessInside_of_lawful ha, if_true]
  split <;> exact ⟨_, rfl⟩

section
variable (hu : s.uploadLawful)
include hu

theorem uploadStore_goesOn : ∃ t, exec .uploadStore s = .next t := by
  simp only [exec, execUploadStore]
  split
  · rename_i g _ _ hg _
    split
    · rename_i hd
      have hcursor := current_cursor_inside ((uploadLawful_iff s).mp hu).1 hg (.inl hd)
      simp only [accessInside_of_lawful ha, hcursor, decide_true, Bool.and_self, if_true]
      exact ⟨_, rfl⟩
    · exact ⟨_, rfl⟩
  · exact ⟨_, rfl⟩

theorem uploadPrefetch_goesOn : ∃ t, exec .uploadPrefetch s = .next t := by
  simp only [exec, execUploadPrefetch]
  split
  · rename_i g hg
    split
    · rename_i hcase
      obtain ⟨hd, hasks⟩ := hcase
      have hroom : s.upload.wantsPrefetch = true := by
        rcases hasks with hlive | hwants
        · have hreq := uploadRequest_of_inProgress hu hlive
          by_contra hn
          simp [uploadRequest, hg, hd, hn] at hreq
        · exact hwants
      obtain ⟨-, -, hlt⟩ := (wantsPrefetch_iff hg).mp hroom
      have hcursor := current_cursor_inside ((uploadLawful_iff s).mp hu).1 hg (.inr hlt)
      simp only [accessInside_of_lawful ha, hcursor, decide_true, Bool.and_self, if_true]
      exact ⟨_, rfl⟩
    · exact ⟨_, rfl⟩
  · exact ⟨_, rfl⟩

end

variable (h : s.labelLawful)
include h

theorem lineFetchEnd_goesOn : ∃ t, exec .lineFetchEnd s = .next t := by
  simp only [exec, execLineFetchEnd]
  split
  · rename_i line hm
    have hl := label_of_labelLawful h
    have hline : line.addr + s.headCfg.lineBytes ≤ Config.memSize := flight_inside hl.table (flight_onTrack hl hm)
    simp only [accessInside_of_lawful ha, hline, decide_true, Bool.and_self, if_true]
    exact ⟨_, rfl⟩
  · exact ⟨_, rfl⟩

theorem bandComplete_goesOn : ∃ t, exec .bandComplete s = .next t := by
  simp only [exec, execBandComplete]
  split
  · rename_i w hs
    have hw : w ∈ s.renderer.work := by rw [hs]; rfl
    simp only [accessInside_of_lawful ha, composeInside_of_lawful h hw, Bool.and_self, if_true]
    exact ⟨_, rfl⟩
  · exact ⟨_, rfl⟩

theorem proofCopyComplete_goesOn : ∃ t, exec .proofCopyComplete s = .next t := by
  simp only [exec, execProofCopyComplete]
  split
  · rename_i c hc
    have hline : c.addr + s.headCfg.lineBytes ≤ Config.memSize := h.proof c hc
    simp only [accessInside_of_lawful ha, hline, decide_true, Bool.and_self, if_true]
    exact ⟨_, rfl⟩
  · exact ⟨_, rfl⟩

variable (hu : s.uploadLawful)
include hu

/-- No row answers the fault in a lawful state. -/
theorem exec_goesOn (i : Instr) : ∃ t, exec i s = .next t := by
  cases i with
  | powerOnClearComplete => exact powerOnClearComplete_goesOn ha
  | lineFetchEnd => exact lineFetchEnd_goesOn ha h
  | bandComplete => exact bandComplete_goesOn ha h
  | proofCopyComplete => exact proofCopyComplete_goesOn ha h
  | uploadStore => exact uploadStore_goesOn ha hu
  | uploadPrefetch => exact uploadPrefetch_goesOn ha hu
  | _ => exact ⟨_, rfl⟩

end

/-! ### The grant (R127, R128) -/

/-- Whatever a client asks for lies inside memory (R124). -/
theorem requestOf_inside {s : State} (h : s.labelLawful) (hu : s.upload.Lawful) {c : Client} {r : Request}
    (hr : requestOf s c = some r) : r.addr < Config.memSize := by
  cases c with
  | fetch => exact fetchRequest_inside h hr
  | rotating k =>
    cases k with
    | renderer => exact rendererRequest_inside h hr
    | upload => exact uploadRequest_inside hu hr
    | port => exact portRequest_inside h hr

/-- What a client asks for does not depend on the arbiter (R127, log entry 10). -/
theorem requestOf_regrant (s : State) (c : Client) : requestOf (regrant s) c = requestOf s c := by
  rw [regrant_arbiter]
  rcases c with _ | (_ | _ | _) <;> rfl

section
variable {s : State} (hr : ∀ c r, requestOf s c = some r → r.addr < Config.memSize) (ha : s.accessLawful)
include hr ha

theorem grant_accessLawful : (grant s).accessLawful := by
  rcases grant_cases s with he | ⟨c, r, -, hc, he⟩ <;> rw [he]
  · exact ha
  · intro a hm
    obtain rfl := Option.some.inj hm
    exact hr c r (choice_requestOf hc)

theorem regrant_accessLawful : (regrant s).accessLawful := by
  unfold regrant
  split
  · exact ha
  · exact grant_accessLawful hr ha

end

/-- A grant to the upload channel is one the channel asks for (R128). -/
theorem grant_uploadLawful {s : State} (h : s.uploadLawful) : (grant s).uploadLawful := by
  obtain ⟨hu, hlive⟩ := (uploadLawful_iff s).mp h
  refine (uploadLawful_iff _).mpr ⟨by rwa [grant_upload], fun a ha hl hc => ?_⟩
  rw [uploadRequest_congr (grant_upload s)]
  rcases grant_cases s with he | ⟨c, r, -, hchoice, he⟩ <;> rw [he] at ha
  · exact hlive a ha hl hc
  · obtain rfl := Option.some.inj ha
    obtain rfl : c = .rotating .upload := hc
    exact Option.isSome_iff_exists.mpr ⟨r, choice_requestOf hchoice⟩

/-! ### The internal step -/

/-- A change of the label keeps the law of the upload channel, whose access stands or is orphaned (R129). -/
theorem LabelOnly.uploadLawful {s t : State} (hl : LabelOnly s t) (ha : s.KeepsAccess t) (h : s.uploadLawful) :
    t.uploadLawful := by
  obtain ⟨hu, hlive⟩ := (uploadLawful_iff s).mp h
  refine (uploadLawful_iff t).mpr ⟨hl.upload ▸ hu, fun a hm hlv hc => ?_⟩
  rw [uploadRequest_congr hl.upload]
  exact hlive a (ha.accessFrom a hm hlv) hlv hc

theorem finishBand_upload (s : State) : (finishBand s).upload = s.upload := by
  unfold finishBand
  split
  · exact (bandDone_labelOnly _ _).upload
  · rfl

theorem endProof_upload (s : State) : (endProof s).upload = s.upload := by
  unfold endProof
  split
  · exact look_upload _
  · rfl

/-- The ends that an access brings about leave the upload channel as it is. -/
theorem due_upload (s : State) : (due s).upload = s.upload := by
  have hclear : (dueClear s).upload = s.upload := by
    unfold dueClear
    split
    · split <;> rfl
    · rfl
  have hfetch : ∀ u : State, (dueFetch u).upload = u.upload := fun u => by
    unfold dueFetch
    split
    · split
      · exact (endFetch_labelOnly u).upload
      · rfl
    · rfl
  have hband : ∀ u : State, (dueBand u).upload = u.upload := fun u => by
    unfold dueBand
    split
    · exact finishBand_upload u
    · rfl
  have hproof : ∀ u : State, (dueProof u).upload = u.upload := fun u => by
    unfold dueProof
    split
    · split
      · exact endProof_upload u
      · rfl
    · rfl
  rw [due, hproof, hband, hfetch, hclear]

section
variable {s : State} (h : s.labelLawful)
include h

/-- After the ends that an access brings about the next access granted lies inside memory (R130). -/
theorem regrant_due_accessLawful (hu : s.upload.Lawful) (ha : s.accessLawful) : (regrant (due s)).accessLawful := by
  have hupload : (regrant (due s)).upload = s.upload := by
    rw [regrant_arbiter]
    exact due_upload s
  refine regrant_accessLawful (fun c r hreq => ?_) ((due_keepsMemory s).access ha)
  rw [← requestOf_regrant] at hreq
  exact requestOf_inside (regrant_due_labelLawful h) (by rwa [hupload]) hreq

theorem timers_labelLawful : (timers s).labelLawful :=
  kept_of_labelOnly h (timers_labelOnly s) timers_label (timers_lawful h.jobs).1

theorem grant_labelLawful : (grant s).labelLawful :=
  kept_of_labelOnly h (grant_labelOnly s) grant_label
    (jobsLawful_congr h.jobs (by simp) (by simp) (by simp) fun hl => by rwa [grant_head])

/-- The internal step goes on: the access in it lies inside memory, whether it was in progress or is granted there. -/
theorem tick_goesOn (hu : s.uploadLawful) (ha : s.accessLawful) : ∃ t, tick s = .next t ∧ t.accessLawful := by
  unfold tick
  split
  · exact ⟨s, rfl, ha⟩
  split
  · have hupload : (takeReading s).upload = s.upload := by
      unfold takeReading
      split <;> rfl
    exact ⟨_, rfl, regrant_due_accessLawful (takeReading_labelLawful h) (hupload ▸ ((uploadLawful_iff s).mp hu).1)
      ((takeReading_keepsMemory s).access ha)⟩
  · have htimers := timers_labelLawful h
    have hu' := (timers_labelOnly s).uploadLawful (timers_keepsAccess s) hu
    have ha' : (grant (timers s)).accessLawful :=
      grant_accessLawful (fun _ _ => requestOf_inside htimers ((uploadLawful_iff _).mp hu').1)
        ((timers_keepsAccess s).accessLawful ha)
    have hu'' := perform_uploadLawful (grant_uploadLawful hu')
    dsimp only
    rw [accessInside_of_lawful ha', if_pos rfl]
    exact ⟨_, rfl, regrant_due_accessLawful (perform_labelLawful (grant_labelLawful htimers)) ((uploadLawful_iff _).mp hu'').1
      ((perform_keepsMemory _).access ha')⟩

/-- In a lawful state the step goes on, and the access in progress lies inside memory again. -/
theorem step_goesOn (hu : s.uploadLawful) (ha : s.accessLawful) : ∃ t, step s = .next t ∧ t.accessLawful := by
  unfold step
  split
  · exact tick_goesOn h hu ha
  · rename_i i rest _
    have hq : SameLabel s { s with pending := rest } := ⟨rfl, rfl, rfl, rfl, rfl, rfl, rfl, rfl, rfl, rfl, id⟩
    obtain ⟨t, ht⟩ := exec_goesOn (s := { s with pending := rest }) ha (hq.labelLawful h) hu i
    exact ⟨t, ht, (exec_keepsMemory ht).access ha⟩

end

/-- Settles O51: memory's form by `step_wf`, and the rest by `step_goesOn`. -/
theorem everyStepKeepsTheMemoryForm : Obligations.EveryStepKeepsTheMemoryForm :=
  ⟨fun _ _ h hstep => step_wf h hstep, accessLawful_of_quiet rfl, fun _ h hu ha => step_goesOn h hu ha⟩

end Sys2Proof.Machine
end

section
/-! LOAD_SEGMENT, its checks in order, and the segment in its slot (R138, R139). -/

namespace Sys2Proof.Machine

/-! ### The control byte (R178) -/

/-- The unused bits of the control byte are 0 exactly below 4. -/
theorem unusedControlBits_iff (ctl : Byte) : ctl &&& 0xFC = 0x00 ↔ ctl.toNat < 4 := by
  revert ctl
  decide

/-- Bit i of a byte, from its number. -/
theorem getLsbD_eq_decide (b : Byte) (i : Nat) : b.getLsbD i = decide (b.toNat / 2 ^ i % 2 = 1) :=
  Nat.testBit_eq_decide_div_mod_eq

/-! ### The parameters (R138, R178) -/

/-- Check 1 of LOAD_SEGMENT (R138). -/
theorem parseSegment_length {ps : List Byte} (h : ps.length ≠ 9) : parseSegment ps = .error .badLength := by
  unfold parseSegment
  split
  · exact absurd rfl h
  · rfl

/-- The segment that LOAD_SEGMENT makes of its parameters: its cursor at its address and its bytes left at its total (R137). -/
abbrev segmentRecord (ps : List Byte) : Segment where
  direction := if paramByte ps 0 % 2 = 1 then .dirOut else .dirIn
  address := paramWord ps 1
  rowBytes := paramWord ps 3
  rows := paramWord ps 5
  stride := paramWord ps 7
  notify := decide (paramByte ps 0 / 2 % 2 = 1)
  cursor := paramWord ps 1
  position := 0
  bytesLeft := paramWord ps 5 * paramWord ps 3

/-- The bytes of a row, the rows or the stride of a segment are out of range (R138). -/
abbrev Segment.OutOfRange (g : Segment) : Prop :=
  g.rowBytes < 1 ∨ 256 < g.rowBytes ∨ g.rows < 1 ∨ 4096 < g.rows ∨ g.stride < g.rowBytes ∨ 4096 < g.stride

/-- Check 2 of LOAD_SEGMENT (R138). -/
theorem parseSegment_nine {ps : List Byte} (h : ps.length = 9) :
    parseSegment ps =
      if 4 ≤ paramByte ps 0 ∨ (segmentRecord ps).OutOfRange then .error .badParam else .ok (segmentRecord ps) := by
  match ps, h with
  | [ctl, a0, a1, b0, b1, r0, r1, s0, s1], _ =>
    have hrange : (1 ≤ le16 b0 b1 ∧ le16 b0 b1 ≤ 256 ∧ 1 ≤ le16 r0 r1 ∧ le16 r0 r1 ≤ 4096 ∧ le16 b0 b1 ≤ le16 s0 s1 ∧
          le16 s0 s1 ≤ 4096 ∧ ctl &&& 0xFC = 0x00) ↔
        ¬ (4 ≤ ctl.toNat ∨ (segmentRecord [ctl, a0, a1, b0, b1, r0, r1, s0, s1]).OutOfRange) := by
      rw [unusedControlBits_iff]
      show _ ↔ ¬ (_ ∨ le16 b0 b1 < 1 ∨ 256 < le16 b0 b1 ∨ le16 r0 r1 < 1 ∨ 4096 < le16 r0 r1 ∨
        le16 s0 s1 < le16 b0 b1 ∨ 4096 < le16 s0 s1)
      omega
    rw [← ite_not, parseSegment]
    refine if_congr hrange ?_ rfl
    simp only [getLsbD_eq_decide, decide_eq_true_eq, pow_zero, Nat.div_one, pow_one]
    rfl

/-- The checks of LOAD_SEGMENT in order, in the terms of the claims (R138). -/
theorem loadSegmentCheck_eq (ps : List Byte) (s : State) :
    let g := segmentRecord ps
    loadSegmentCheck ps s =
      if ps.length ≠ 9 then .error .badLength
      else if 4 ≤ paramByte ps 0 ∨ g.OutOfRange then .error .badParam
      else if s.upload.cur.isSome ∧ s.upload.nxt.isSome then .error .slotsFull
      else if 65536 < g.spanEnd then .error .range
      else if (s.jobs.front.isSome ∨ s.jobs.back.isSome) ∧ s.segmentOverZone g then .error .zone
      else .ok g := by
  intro g
  unfold loadSegmentCheck
  by_cases hl : ps.length = 9
  swap
  · rw [if_pos hl, parseSegment_length hl]
  rw [if_neg (not_not.mpr hl), parseSegment_nine hl]
  by_cases hr : 4 ≤ paramByte ps 0 ∨ g.OutOfRange
  · rw [if_pos hr, if_pos hr]
  · rw [if_neg hr, if_neg hr]
    have hzone : (!s.jobs.isEmpty && s.overlapsZone g.address g.spanEnd) = true ↔
        (s.jobs.front.isSome ∨ s.jobs.back.isSome) ∧ s.segmentOverZone g := by
      rw [Bool.and_eq_true, overlapsZone_iff, Bool.not_eq_true', ← Bool.not_eq_true, isEmpty_iff, not_not]
      rfl
    exact if_congr Bool.and_eq_true_iff rfl (if_congr Iff.rfl rfl (if_congr hzone rfl rfl))

/-! ### The command -/

theorem exec_loadSegment {s : State} (h : s.admits) :
    exec .loadSegment s = .next (completeWith (loadSegmentBody s.port.params (take Config.codeLoadSegment s))) :=
  congrArg _ (offer_taken h _ _)

/-- The segment goes to the current slot of an idle channel, and otherwise to the next slot (R139). -/
theorem completeWith_loadSegmentAct (g : Segment) (code : Byte) (s : State) :
    completeWith (accept [] (loadSegmentAct g (take code s))) =
      if s.upload.cur.isSome then ({ s with upload := { s.upload with nxt := some g } } : State).answered code .ok []
      else ({ s with upload := { s.upload with cur := some g } } : State).answered code .ok [] := by
  unfold loadSegmentAct
  rw [take_upload]
  cases s.upload.cur <;> rfl

/-- Settles O11: the checks in order by `loadSegmentCheck_eq`, the slot by `completeWith_loadSegmentAct`. -/
theorem loadSegmentChecksThenLoads : Obligations.LoadSegmentChecksThenLoads := by
  intro s h
  rw [exec_loadSegment h]
  simp only [loadSegmentBody, loadSegmentCheck_eq, completeWith_checked_ite, checked_ok, completeWith_loadSegmentAct]
  rfl

end Sys2Proof.Machine
end

section
/-! The accesses to DATA (R140, R143, R144), and the store and the prefetch performed by their rows (R141, R142). -/

namespace Sys2Proof.Machine

/-! ### The end of the current segment (R144) -/

/-- A report posted does not look at the upload channel. -/
theorem post_withUpload (r : Report) (u : Upload) (s : State) :
    { post r s with upload := u } = post r { s with upload := u } := by
  unfold post
  split <;> rfl

/-- The last byte of a segment leaves the next segment current, and SEGMENT_DONE posted if its notify is set (R144). -/
theorem setCurrent_ended {g : Segment} (h : g.bytesLeft = 0) (fifo : List Byte) (s : State) :
    setCurrent g fifo s =
      if g.notify then post (reportSegmentDone g) { s with upload := ⟨s.upload.nxt, none, fifo⟩ }
      else { s with upload := ⟨s.upload.nxt, none, fifo⟩ } := by
  have hnxt : ∀ r t, (post r t).upload = t.upload := fun r t => (post_labelOnly r t).upload
  unfold setCurrent endSegment
  rw [if_pos h]
  dsimp only
  split
  · rw [hnxt]
    exact post_withUpload _ _ _
  · rfl

/-! ### The accesses to DATA (R140, R143) -/

/-- The FIFO offers room to a DATA write (R140). -/
theorem room_iff (u : Upload) :
    u.room = true ↔ ∃ g ∈ u.cur, g.direction = .dirIn ∧ u.fifo.length < 8 ∧ u.fifo.length < g.bytesLeft := by
  unfold Upload.room
  cases u.cur with
  | none => simp
  | some g => simp [Config.fifoDepth]

theorem dataWriteOp_eq {s : State} (h : s.phase ≠ .held) (v : Byte) :
    dataWriteOp v s =
      if s.upload.room then { s with upload := { s.upload with fifo := s.upload.fifo ++ [v] } }
      else s.withSticky fun f => { f with dataSpill := true } :=
  if_neg h

/-- Settles O13: the room of the FIFO by `room_iff`. -/
theorem dataWriteJoinsTheFifoOrSpills : Obligations.DataWriteJoinsTheFifoOrSpills := by
  intro v s h
  rw [exec, execDataWrite, dataWriteOp_eq h]
  exact congrArg _ (if_congr (room_iff s.upload) rfl rfl)

/-- A DATA read with an OUT segment current and a byte in the FIFO takes the byte (R143). -/
theorem dataReadOp_taken {s : State} (h : s.phase ≠ .held) {g : Segment} {v : Byte} {rest : List Byte}
    (hg : s.upload.cur = some g) (hd : g.direction = .dirOut) (hf : s.upload.fifo = v :: rest) :
    dataReadOp s = takeDataByte g v rest s := by
  simp only [dataReadOp, if_neg h, hg, hf, hd, if_true]

/-- Any other DATA read falls short (R143). -/
theorem dataReadOp_short {s : State} (h : s.phase ≠ .held)
    (hshort : s.upload.fifo = [] ∨ ∀ g ∈ s.upload.cur, g.direction = .dirIn) : dataReadOp s = shortData s := by
  rw [dataReadOp, if_neg h]
  split
  · rename_i g v rest hg hf
    rcases hshort with hempty | hin
    · rw [hempty] at hf
      cases hf
    · rw [hin g hg, if_neg (by decide)]
  · rfl

/-- Settles O14: the byte taken leaves the segment going on, or ends it by `setCurrent_ended`. -/
theorem dataReadTakesTheHeadOrFallsShort : Obligations.DataReadTakesTheHeadOrFallsShort := by
  intro s h
  refine ⟨fun g v rest hg hd hf hleft => ?_, fun g v hg hd hf hleft => ?_, fun hshort => ?_⟩
  · rw [exec, execDataRead, dataReadOp_taken h hg hd hf, takeDataByte, setCurrent_going (by dsimp only; omega)]
  · rw [exec, execDataRead, dataReadOp_taken h hg hd hf, takeDataByte, setCurrent_ended (by dsimp only; omega)]
    simp only [reportSegmentDone, hd]
    rfl
  · rw [exec, execDataRead, dataReadOp_short h hshort]
    rfl

/-! ### The store and the prefetch by their rows (R141, R142, log entry 8) -/

section
variable {s : State} (hq : s.quiet)
include hq

/-- With no access in progress only the row's own access can lie outside memory (R124). -/
theorem accessesInside_of_quiet {g : Segment} (hc : g.cursor < 65536) :
    (s.accessInside && decide (g.cursor < Config.memSize)) = true := by
  simp [State.accessInside, hq, hc]

theorem uploadInProgress_of_quiet : s.uploadInProgress = false := by simp [State.uploadInProgress, hq]

/-- With no access in progress UPLOAD_STORE is the store of the FIFO's head byte (R141). -/
theorem exec_uploadStore_quiet {g : Segment} {v : Byte} {rest : List Byte} (hg : s.upload.cur = some g)
    (hd : g.direction = .dirIn) (hf : s.upload.fifo = v :: rest) (hc : g.cursor < 65536) :
    exec .uploadStore s = .next (setCurrent { g.advance with bytesLeft := g.bytesLeft - 1 } rest
      { s with mem := Memory.write s.mem g.cursor v, arbiter := ⟨none, .upload⟩ }) := by
  simp only [exec, execUploadStore, hg, hf, hd, if_true, accessesInside_of_quiet hq hc,
    uploadInProgress_of_quiet hq, perform_quiet hq, Bool.false_eq_true, if_false, storeNow,
    storePerformed, State.land, State.served, hq, List.tail_cons]

/-- With no access in progress UPLOAD_PREFETCH is the prefetch at the cursor (R142). -/
theorem exec_uploadPrefetch_quiet {g : Segment} (hg : s.upload.cur = some g) (hd : g.direction = .dirOut)
    (hw : s.upload.wantsPrefetch = true) (hc : g.cursor < 65536) :
    exec .uploadPrefetch s = .next { s with
      arbiter := ⟨none, .upload⟩
      upload := ⟨some g.advance, s.upload.nxt, s.upload.fifo ++ [Memory.read s.mem g.cursor]⟩ } := by
  simp only [exec, execUploadPrefetch, hg, hd, hw, or_true, and_self, if_true, accessesInside_of_quiet hq hc,
    uploadInProgress_of_quiet hq, perform_quiet hq, Bool.false_eq_true, if_false, prefetchNow,
    prefetchPerformed, State.served, hq]

end

/-- Settles O15: the rows as they stand with no access in progress; the byte written by `Memory.read_write`. -/
theorem uploadAccessesMoveOneByte : Obligations.UploadAccessesMoveOneByte := by
  intro s g hq hwf hg hc moved
  have hread := fun v => Memory.read_write hwf hc v
  refine ⟨fun v rest hd hf hleft => ?_, fun v hd hf hleft => ?_, fun hd hdepth hleft => ?_⟩
  · refine ⟨Memory.write s.mem g.cursor v, ?_, hread v⟩
    rw [exec_uploadStore_quiet hq hg hd hf hc, setCurrent_going (by dsimp only; omega)]
    rfl
  · refine ⟨Memory.write s.mem g.cursor v, hread v, ?_⟩
    rw [exec_uploadStore_quiet hq hg hd hf hc, setCurrent_ended (by dsimp only; omega)]
    simp only [reportSegmentDone, advance_notify, advance_direction, advance_rows, advance_rowBytes, hd]
    rfl
  · exact exec_uploadPrefetch_quiet hq hg hd ((wantsPrefetch_iff hg).mpr ⟨hd, hdepth, hleft⟩) hc

end Sys2Proof.Machine
end

section
/-! The operations over the label leave the band zone where it is and open no job (R1, R60): what the guard of the zone looks at,
but for the segments loaded (R136, R150). -/

namespace Sys2Proof.Machine

/-! ### The band zone kept, and no job opened -/

/-- The second ring lies at the base of the first, with as many bands of as many lines, and the second job table is empty if the
first is. -/
structure ZoneKept (r r' : Ring) (t t' : JobTable) : Prop where
  base : r'.base = r.base
  n : r'.n = r.n
  h : r'.h = r.h
  empty : t = ⟨none, none⟩ → t' = ⟨none, none⟩

/-- From the first state to the second the band zone stays where it is but for the line width, and no job is opened. -/
def State.KeepsZone (s t : State) : Prop := ZoneKept s.ring t.ring s.jobs t.jobs

theorem State.KeepsZone.refl (s : State) : s.KeepsZone s := ⟨rfl, rfl, rfl, id⟩

theorem State.KeepsZone.trans {s t u : State} (h : s.KeepsZone t) (k : t.KeepsZone u) : s.KeepsZone u :=
  ⟨k.base.trans h.base, k.n.trans h.n, k.h.trans h.h, k.empty ∘ h.empty⟩

theorem keepsZone_of_eq {s t : State} (hr : t.ring = s.ring) (hj : t.jobs = s.jobs) : s.KeepsZone t :=
  ⟨by rw [hr], by rw [hr], by rw [hr], fun h => hj.trans h⟩

/-- A change of the bands' records keeps the zone. -/
theorem setBand_keepsZone (s : State) (i : Nat) (b : Option Band) : s.KeepsZone (s.setBand i b) := ⟨rfl, rfl, rfl, id⟩

/-- A change of the front job's record opens no job. -/
theorem updateFront_keepsZone (s : State) (f : Job → Job) : s.KeepsZone (s.updateFront f) :=
  ⟨rfl, rfl, rfl, fun h => by rw [State.updateFront_jobs, h]; rfl⟩

/-- A change of the record of a tag opens no job. -/
theorem update_keepsZone (s : State) (tag : Byte) (f : Job → Job) : s.KeepsZone (s.withJobs (s.jobs.update tag f)) :=
  ⟨rfl, rfl, rfl, fun h => by rw [State.withJobs_jobs, h]; rfl⟩

/-! ### The look, the reports and the settle (R78 to R81, R103, R153) -/

@[simp] theorem look_n (s : State) : (look s).ring.n = s.ring.n := by
  rcases look_cases s with ⟨e, -⟩ | ⟨r, -, e⟩ | ⟨j, -, -, -, -, e⟩ <;> rw [e]
  rfl

theorem look_keepsZone (s : State) : s.KeepsZone (look s) :=
  ⟨look_base s, look_n s, look_h s, fun h => (look_jobs s).trans h⟩

theorem post_keepsZone (r : Report) (s : State) : s.KeepsZone (post r s) := keepsZone_of_eq (post_ring r s) (post_jobs r s)

theorem settle_keepsZone (s : State) : s.KeepsZone (settle s) := keepsZone_of_eq (settle_ring s) (settle_jobs s)

/-! ### The front job leaves; completion and abort (R13 to R21) -/

theorem freeJob_keepsZone (tag : Byte) (keep : Bool) (s : State) : s.KeepsZone (freeJob tag keep s) :=
  have hfreed := freeJob_freed tag keep s
  ⟨hfreed.base, hfreed.n, hfreed.h, fun h => (freeJob_jobs tag keep s).trans h⟩

theorem frontLeaves_keepsZone (s : State) : s.KeepsZone (frontLeaves s) where
  base := by rw [frontLeaves_ring]
  n := by rw [frontLeaves_ring]
  h := by rw [frontLeaves_ring]
  empty := fun h => by rw [frontLeaves_jobs, h]

theorem completeFront_keepsZone (j : Job) (s : State) : s.KeepsZone (completeFront j s) :=
  (((post_keepsZone _ s).trans (freeJob_keepsZone j.tag false _)).trans (frontLeaves_keepsZone _)).trans (look_keepsZone _)

theorem completeIfDone_keepsZone (s : State) : s.KeepsZone (completeIfDone s) := by
  rcases completeIfDone_cases s with h | ⟨j, -, -, -, h⟩ <;> rw [h]
  · exact .refl s
  · exact completeFront_keepsZone j s

theorem abortFrontAtOnce_keepsZone (j : Job) (cause : AbortCause) (s : State) : s.KeepsZone (abortFrontAtOnce j cause s) :=
  (((freeJob_keepsZone j.tag false s).trans (post_keepsZone _ _)).trans (frontLeaves_keepsZone _)).trans (look_keepsZone _)

theorem abortBack_keepsZone (j : Job) (s : State) : s.KeepsZone (abortBack j s) := by
  have hleft : ∀ u : State, u.KeepsZone (u.withJobs ⟨u.jobs.front, none⟩) := fun u =>
    ⟨rfl, rfl, rfl, fun h => by rw [State.withJobs_jobs, h]⟩
  exact (((freeJob_keepsZone j.tag false s).trans (post_keepsZone _ _)).trans (hleft _)).trans (look_keepsZone _)

theorem abortInFlight_keepsZone (cause : AbortCause) (s : State) : s.KeepsZone (abortInFlight cause s) := by
  unfold abortInFlight
  split
  · split
    · exact .refl s
    · exact ((updateFront_keepsZone s _).trans (freeJob_keepsZone _ true _)).trans (look_keepsZone _)
  · exact .refl s

theorem endAbort_keepsZone (s : State) : s.KeepsZone (endAbort s) := by
  unfold endAbort
  split
  · rename_i j _
    split
    · have hfreed : s.KeepsZone (s.freeJobBands j.tag false) := ⟨setBack_base _, setBack_n _, setBack_h _, id⟩
      exact ((hfreed.trans (post_keepsZone _ _)).trans (frontLeaves_keepsZone _)).trans (look_keepsZone _)
    · exact .refl s
  · exact .refl s

/-! ### A step consumed with no line in flight (R105 to R107, R113, R114, R117) -/

theorem trailingStep_keepsZone (s : State) : s.KeepsZone (trailingStep s) :=
  ((updateFront_keepsZone s.clearHistory _).trans (completeIfDone_keepsZone _)).trans (settle_keepsZone _)

theorem startLine_keepsZone (j : Job) (i : Nat) (s : State) : s.KeepsZone (startLine j i s) := by
  unfold startLine
  split
  · exact setBand_keepsZone s _ _
  · exact .refl s

theorem underrunStep_keepsZone (j : Job) (s : State) : s.KeepsZone (underrunStep j s) := by
  unfold underrunStep
  split
  · exact (((updateFront_keepsZone s.clearHistory _).trans (post_keepsZone _ _)).trans (completeIfDone_keepsZone _)).trans
      (settle_keepsZone _)
  · exact (abortFrontAtOnce_keepsZone j .underrun s).trans (settle_keepsZone _)

theorem armedStep_keepsZone (j : Job) (s : State) : s.KeepsZone (armedStep j s) := by
  unfold armedStep
  split
  · exact trailingStep_keepsZone s
  · split
    · exact startLine_keepsZone j _ s
    · exact underrunStep_keepsZone j s

theorem servedStep_keepsZone (s : State) : s.KeepsZone (servedStep s) := by
  unfold servedStep
  split
  · exact settle_keepsZone s
  · split
    · exact armedStep_keepsZone _ s
    · exact underrunStep_keepsZone _ s

theorem serveLatch_keepsZone (s : State) : s.KeepsZone (serveLatch s) := by
  unfold serveLatch
  split
  · exact servedStep_keepsZone { s with head := { s.head with mode := .idle, latch := false } }
  · exact settle_keepsZone (s.withMode .idle)

/-! ### The end of a line (R69, R110, R116, R120) -/

theorem releaseBand_keepsZone (line : Line) (s : State) : s.KeepsZone (releaseBand line s) := by
  rcases releaseBand_cases line s with e | ⟨b, -, -, e⟩ <;> rw [e]
  · exact .refl s
  · exact (setBand_keepsZone s _ _).trans (look_keepsZone _)

theorem endAbortOrComplete_keepsZone (s : State) : s.KeepsZone (endAbortOrComplete s) := by
  unfold endAbortOrComplete
  split
  · split
    · exact endAbort_keepsZone s
    · exact completeIfDone_keepsZone s
  · exact .refl s

theorem endLine_keepsZone (line : Line) (s : State) : s.KeepsZone (endLine line s) :=
  .trans (t := printed line s) (updateFront_keepsZone { s with head := _ } _)
    (((releaseBand_keepsZone line _).trans (endAbortOrComplete_keepsZone _)).trans (serveLatch_keepsZone _))

theorem abandonLine_keepsZone (s : State) : s.KeepsZone (abandonLine s) :=
  .trans (t := (endAbort s).orphan .fetch) (endAbort_keepsZone s) (serveLatch_keepsZone _)

/-! ### Shifts, pulses and line steps (R105, R108 to R111, R118 to R120) -/

theorem startPulse_keepsZone (p : Pass) (line : Line) (s : State) : s.KeepsZone (startPulse p line s) := by
  unfold startPulse markStarted
  split
  · exact .refl s
  · exact post_keepsZone _ { s with head := { s.head with started := true } }

theorem takeUpGroup_keepsZone (p : Pass) (k : Nat) (line : Line) (s : State) : s.KeepsZone (takeUpGroup p k line s) := by
  unfold takeUpGroup
  split
  · split
    · exact .refl s
    · exact startPulse_keepsZone p _ s
  · split
    · exact .refl s
    · exact endLine_keepsZone line s

theorem lineFetched_keepsZone (line : Line) (s : State) : s.KeepsZone (lineFetched line s) := by
  unfold lineFetched
  split
  · dsimp only
    split <;> exact .refl s
  · exact endLine_keepsZone line s

theorem endFetch_keepsZone (s : State) : s.KeepsZone (endFetch s) := by
  unfold endFetch
  split
  · exact lineFetched_keepsZone _ s
  · exact .refl s

theorem endShift_keepsZone (s : State) : s.KeepsZone (endShift s) := by
  unfold endShift
  split
  · exact takeUpGroup_keepsZone _ 1 _ s
  · exact .refl s

theorem endPulse_keepsZone (s : State) : s.KeepsZone (endPulse s) := by
  unfold endPulse
  split
  · split
    · exact abandonLine_keepsZone s
    · exact takeUpGroup_keepsZone _ _ _ s
  · exact .refl s

theorem expireHold_keepsZone (s : State) : s.KeepsZone (expireHold s) := by
  unfold expireHold
  split
  · exact (abortInFlight_keepsZone .headHot s).trans (abandonLine_keepsZone _)
  · exact .refl s

theorem releaseHold_keepsZone (s : State) : s.KeepsZone (releaseHold s) := by
  unfold releaseHold
  split
  · exact startPulse_keepsZone _ _ s
  · exact .refl s

theorem loseStep_keepsZone (phase : LinePhase) (line : Line) (s : State) : s.KeepsZone (loseStep phase line s) := by
  have h := abortInFlight_keepsZone .stepLost
    { s with head := { s.head with latch := false, mode := .inFlight phase { line with ending := true } } }
  unfold loseStep
  dsimp only
  split
  · exact h
  · exact h.trans (abandonLine_keepsZone _)

theorem lineStepOp_keepsZone (s : State) : s.KeepsZone (lineStepOp s) := by
  unfold lineStepOp
  split
  · split
    · exact .refl s
    · exact underrunStep_keepsZone _ s
    · exact armedStep_keepsZone _ s
    · split
      · exact .refl s
      · split
        · exact loseStep_keepsZone _ _ s
        · exact .refl s
    · exact .refl s
  · exact .refl s

theorem timers_keepsZone (s : State) : s.KeepsZone (timers s) := by
  unfold timers
  split
  · split
    · exact endShift_keepsZone s
    · exact .refl s
  · split
    · exact endPulse_keepsZone s
    · exact .refl s
  · split
    · exact expireHold_keepsZone s
    · exact .refl s
  · exact .refl s

/-! ### The completion of a band, and the commands that open no job (R8, R9, R16, R96) -/

theorem postAll_keepsZone (rs : List Report) (s : State) : s.KeepsZone (postAll rs s) := by
  obtain ⟨hjobs, -, hring, -⟩ := postAll_label rs s
  exact keepsZone_of_eq hring hjobs

theorem bandDone_keepsZone (w : Work) (s : State) : s.KeepsZone (bandDone w s) := by
  rw [bandDone_completed]
  have hcompleted : s.KeepsZone (bandCompleted w s) :=
    (setBand_keepsZone s w.band (completedBand w s.jobs)).trans (update_keepsZone _ w.job (Job.renderedTo (w.first + w.count)))
  exact ((hcompleted.trans (postAll_keepsZone _ _)).trans (look_keepsZone _)).trans (settle_keepsZone _)

theorem commitAct_keepsZone (j : Job) (row : Nat) (s : State) : s.KeepsZone (commitAct j row s) := by
  unfold commitAct
  split
  · exact (update_keepsZone s j.tag (Job.committedTo row)).trans (look_keepsZone _)
  · exact .refl s

theorem closeJobAct_keepsZone (j : Job) (s : State) : s.KeepsZone (closeJobAct j s) :=
  (update_keepsZone s j.tag Job.closing).trans (look_keepsZone _)

theorem abortJobAct_keepsZone (j : Job) (s : State) : s.KeepsZone (abortJobAct j s) := by
  unfold abortJobAct
  split
  · split
    · exact abortInFlight_keepsZone .host s
    · exact (abortFrontAtOnce_keepsZone j .host s).trans (settle_keepsZone _)
  · exact abortBack_keepsZone j s

end Sys2Proof.Machine
end

section
/-! What keeps the law of the upload channel and the guard of the band zone (R136 to R144, R150): the channel's own moves, the
accesses to DATA, and the operations that leave the channel as it is. -/

namespace Sys2Proof.Machine

/-! ### The spans of the loaded segments (R137, R150) -/

/-- A segment is in one of the two slots. -/
def Upload.Loaded (u : Upload) (g : Segment) : Prop := u.cur = some g ∨ u.nxt = some g

/-- Every segment of the second channel has the span of one of the first. -/
def Upload.SpansFrom (u v : Upload) : Prop :=
  ∀ k, v.Loaded k → ∃ g, u.Loaded g ∧ k.address = g.address ∧ k.spanEnd = g.spanEnd

theorem Upload.SpansFrom.refl (u : Upload) : u.SpansFrom u := fun g hg => ⟨g, hg, rfl, rfl⟩

theorem slotOverZone_eq_false (s : State) (slot : Option Segment) :
    s.slotOverZone slot = false ↔ ∀ g, slot = some g → s.overlapsZone g.address g.spanEnd = false := by
  cases slot <;> simp [State.slotOverZone]

/-- The guard of the band zone, segment by segment. -/
theorem zoneGuarded_iff (s : State) : s.zoneGuarded ↔
    (s.jobs.isEmpty = false → ∀ g, s.upload.Loaded g → s.overlapsZone g.address g.spanEnd = false) := by
  simp only [State.zoneGuarded, slotOverZone_eq_false, Upload.Loaded, or_imp, forall_and]

/-- The guard is void without a job (R150). -/
theorem zoneGuarded_of_empty {s : State} (h : s.jobs = ⟨none, none⟩) : s.zoneGuarded := fun hp => by
  rw [h] at hp
  cases hp

/-- The zone looks at the ring's place and the line width alone (R60). -/
theorem State.KeepsZone.overlapsZone {s t : State} (h : s.KeepsZone t) (hcfg : t.headCfg = s.headCfg) (lo hi : Nat) :
    t.overlapsZone lo hi = s.overlapsZone lo hi := by
  unfold State.overlapsZone State.zoneEnd
  rw [h.base, h.n, h.h, hcfg]

/-- With the zone kept and no job opened the guard holds on of segments with the spans of before. -/
theorem State.KeepsZone.zoneGuarded {s t : State} (h : s.KeepsZone t) (hcfg : t.headCfg = s.headCfg)
    (hu : s.upload.SpansFrom t.upload) (hs : s.zoneGuarded) : t.zoneGuarded := by
  rw [zoneGuarded_iff] at hs ⊢
  intro hp k hk
  have hpresent : s.jobs.isEmpty = false := Bool.eq_false_iff.mpr fun he => by
    rw [h.empty (jobs_of_isEmpty he)] at hp
    cases hp
  obtain ⟨g, hg, haddress, hend⟩ := hu k hk
  rw [h.overlapsZone hcfg, haddress, hend]
  exact hs hpresent g hg

/-! ### The law and the guard kept -/

/-- The second state meets the law of the upload channel if the first does, and likewise the guard of the band zone. -/
structure State.KeepsUpload (s t : State) : Prop where
  law : s.uploadLawful → t.uploadLawful
  guard : s.zoneGuarded → t.zoneGuarded

theorem State.KeepsUpload.refl (s : State) : s.KeepsUpload s := ⟨id, id⟩

theorem State.KeepsUpload.trans {s t u : State} (h : s.KeepsUpload t) (k : t.KeepsUpload u) : s.KeepsUpload u :=
  ⟨k.law ∘ h.law, k.guard ∘ h.guard⟩

/-- The law looks at the channel and the access in progress alone. -/
theorem uploadLawful_congr {s t : State} (hu : t.upload = s.upload) (ha : t.arbiter.inProgress = s.arbiter.inProgress) :
    s.uploadLawful → t.uploadLawful := by
  rw [uploadLawful_iff, uploadLawful_iff, hu, ha, uploadRequest_congr hu]
  exact id

/-- Channel, access in progress, jobs, ring and head configuration as before. -/
theorem keepsUpload_of_eq {s t : State} (hu : t.upload = s.upload) (ha : t.arbiter.inProgress = s.arbiter.inProgress)
    (hj : t.jobs = s.jobs) (hr : t.ring = s.ring) (hcfg : t.headCfg = s.headCfg) : s.KeepsUpload t :=
  ⟨uploadLawful_congr hu ha, (keepsZone_of_eq hr hj).zoneGuarded hcfg (hu ▸ .refl _)⟩

/-- A change of the label that keeps the zone and opens no job. -/
theorem LabelOnly.keepsUpload {s t : State} (hl : LabelOnly s t) (ha : s.KeepsAccess t) (hz : s.KeepsZone t) :
    s.KeepsUpload t :=
  ⟨hl.uploadLawful ha, hz.zoneGuarded hl.headCfg (hl.upload ▸ .refl _)⟩

/-- An idle channel with no live access of its own is lawful (R136). -/
theorem uploadLawful_of_idle {s : State} (hu : s.upload = ⟨none, none, []⟩)
    (ha : ∀ a ∈ s.arbiter.inProgress, a.live = true → a.client ≠ .rotating .upload) : s.uploadLawful := by
  refine (uploadLawful_iff s).mpr ⟨?_, fun a hm hl hc => absurd hc (ha a hm hl)⟩
  rw [hu]
  exact ⟨fun _ h => (by cases h), fun _ h => (by cases h), fun _ => ⟨rfl, rfl⟩, Nat.zero_le _⟩

/-- An emptied channel meets the law, and guards the zone with nothing loaded (R136). -/
theorem keepsUpload_of_idle {s t : State} (hu : t.upload = ⟨none, none, []⟩)
    (ha : ∀ a ∈ t.arbiter.inProgress, a.live = true → a.client ≠ .rotating .upload) : s.KeepsUpload t := by
  refine ⟨fun _ => uploadLawful_of_idle hu ha, fun _ => (zoneGuarded_iff t).mpr fun _ g hg => ?_⟩
  rw [hu] at hg
  rcases hg with hg | hg <;> cases hg

/-- With no access in progress the channel's own law is the whole law. -/
theorem uploadLawful_of_quiet {s : State} (hq : s.quiet) (h : s.upload.Lawful) : s.uploadLawful :=
  (uploadLawful_iff s).mpr ⟨h, fun a ha => by
    rw [hq] at ha
    cases ha⟩

/-! ### The channel's own moves (R141, R142, R144) -/

/-- A new record of the current segment with its old span, its end included, loads no other span. -/
theorem setCurrent_spans {s : State} {g k : Segment} (hg : s.upload.cur = some g) (haddress : k.address = g.address)
    (hend : k.spanEnd = g.spanEnd) (fifo : List Byte) : s.upload.SpansFrom (setCurrent k fifo s).upload := by
  rw [setCurrent_upload]
  split
  · rintro l (hl | hl)
    · exact ⟨l, .inr hl, rfl, rfl⟩
    · cases hl
  · rintro l (hl | hl)
    · obtain rfl := Option.some.inj hl
      exact ⟨g, .inl hg, haddress, hend⟩
    · exact ⟨l, .inr hl, rfl, rfl⟩

@[simp] theorem advance_spanEnd (g : Segment) : g.advance.spanEnd = g.spanEnd := by simp [Segment.spanEnd]

theorem storePerformed_spans {s : State} {g : Segment} (hg : s.upload.cur = some g) :
    s.upload.SpansFrom (storePerformed g s).upload :=
  setCurrent_spans (k := { g.advance with bytesLeft := g.bytesLeft - 1 }) hg (advance_address g) (advance_spanEnd g) _

theorem prefetchPerformed_spans {s : State} {g : Segment} (hg : s.upload.cur = some g) (v : Byte) :
    s.upload.SpansFrom (prefetchPerformed g v s).upload := by
  rintro k (hk | hk)
  · obtain rfl := Option.some.inj hk
    exact ⟨g, .inl hg, advance_address g, advance_spanEnd g⟩
  · exact ⟨k, .inr hk, rfl, rfl⟩

theorem progress_spans (c : Client) (v : Byte) (s : State) : s.upload.SpansFrom (progress c v s).upload := by
  by_cases hc : c = .rotating .upload
  swap
  · rw [progress_upload hc]
    exact .refl _
  subst hc
  unfold progress
  dsimp only
  split
  · rename_i g hg
    split
    · exact storePerformed_spans hg
    · exact prefetchPerformed_spans hg v
  · exact .refl _

/-- An access performed keeps the law (`perform_uploadLawful`) and loads no span. -/
theorem perform_keepsUpload (s : State) : s.KeepsUpload (perform s) := by
  have hp := performed s
  refine ⟨perform_uploadLawful, (keepsZone_of_eq hp.ring hp.jobs).zoneGuarded hp.headCfg ?_⟩
  unfold perform
  split
  · exact .refl _
  · rename_i a _
    have hland : (({ s with arbiter := { s.arbiter with inProgress := none } } : State).land a).upload = s.upload :=
      land_upload _ a
    dsimp only
    split
    · have hspans := progress_spans a.client (Memory.read s.mem a.addr)
        (({ s with arbiter := { s.arbiter with inProgress := none } } : State).land a)
      rwa [hland] at hspans
    · rw [hland]
      exact .refl _

/-- An access that is not the channel's own, or whose operation has ended, leaves the channel (R128, R129). -/
theorem perform_upload_of_other {s : State} (h : s.uploadInProgress = false) : (perform s).upload = s.upload := by
  cases ha : s.arbiter.inProgress with
  | none => rw [perform_quiet ha]
  | some a =>
    simp only [State.uploadInProgress, ha, Bool.and_eq_false_iff, decide_eq_false_iff_not] at h
    simp only [perform, ha]
    split
    · rename_i hl
      rw [progress_upload (h.resolve_right (by simp [hl])), land_upload]
    · rw [land_upload]

section
variable {s : State} (hq : s.quiet) {g : Segment} (hg : s.upload.cur = some g)
include hq hg

/-- A store performed by its row, with no access in progress (R141). -/
theorem storeNow_keepsUpload (hd : g.direction = .dirIn) (v : Byte) : s.KeepsUpload (storeNow g v s) := by
  have hzone := storeNow_sameLabel g v s
  generalize hu : (s.land ⟨.rotating .upload, g.cursor, some v, true⟩).served .upload = u
  have hupload : u.upload = s.upload := hu ▸ land_upload s _
  have hnow : storeNow g v s = storePerformed g u := by rw [storeNow, hu]
  refine ⟨fun h => ?_, (keepsZone_of_eq hzone.ring hzone.jobs).zoneGuarded hzone.headCfg ?_⟩
  · refine uploadLawful_of_quiet (hzone.inProgress.trans hq) ?_
    rw [hnow]
    exact storePerformed_lawful (hupload ▸ ((uploadLawful_iff s).mp h).1) (hupload ▸ hg) hd
  · rw [hnow, ← hupload]
    exact storePerformed_spans (hupload ▸ hg)

/-- A prefetch performed by its row, with no access in progress and room in the FIFO (R142). -/
theorem prefetchNow_keepsUpload (hw : s.upload.wantsPrefetch = true) : s.KeepsUpload (prefetchNow g s) := by
  obtain ⟨hd, hroom⟩ := (wantsPrefetch_iff hg).mp hw
  refine ⟨fun h => uploadLawful_of_quiet hq ?_, State.KeepsZone.zoneGuarded (.refl s) rfl ?_⟩
  · exact prefetchPerformed_lawful (s := s.served .upload) ((uploadLawful_iff s).mp h).1 hg hd hroom _
  · exact prefetchPerformed_spans (s := s.served .upload) hg _

end

/-! ### The accesses to DATA (R140, R143) -/

/-- The channel asks for a store with a byte in the FIFO of an IN segment, and for a prefetch with room in that of an OUT
segment (R141, R142). -/
theorem uploadRequest_isSome_iff {s : State} {g : Segment} (hg : s.upload.cur = some g) :
    (uploadRequest s).isSome = true ↔ (g.direction = .dirIn ∧ s.upload.fifo ≠ []) ∨
      (g.direction = .dirOut ∧ s.upload.fifo.length < 8 ∧ s.upload.fifo.length < g.bytesLeft) := by
  cases hd : g.direction with
  | dirIn => cases hf : s.upload.fifo <;> simp [uploadRequest, hg, hd, hf]
  | dirOut =>
    have hw := wantsPrefetch_iff hg
    simp only [hd, true_and] at hw
    simp [uploadRequest, hg, hd, hw]

/-- A byte that joins the FIFO of an IN segment with room keeps the law (R140). -/
theorem fifoJoined_keepsUpload {s : State} (hroom : s.upload.room = true) (v : Byte) :
    s.KeepsUpload { s with upload := { s.upload with fifo := s.upload.fifo ++ [v] } } := by
  obtain ⟨g, hg, hd, hdepth, hleft⟩ := (room_iff s.upload).mp hroom
  have hlength : (s.upload.fifo ++ [v]).length = s.upload.fifo.length + 1 := by
    rw [List.length_append, List.length_singleton]
  refine ⟨fun h => ?_, State.KeepsZone.zoneGuarded (.refl s) rfl (.refl s.upload)⟩
  obtain ⟨hu, -⟩ := (uploadLawful_iff s).mp h
  refine (uploadLawful_iff _).mpr ⟨⟨fun k hk => ?_, hu.nxt, fun hn => ?_, ?_⟩, fun _ _ _ _ => ?_⟩
  · obtain rfl : g = k := Option.some.inj (hg.symm.trans hk)
    obtain ⟨hlaw, -, hcursor⟩ := hu.cur g hg
    have hreached : ∀ n, g.reached n = g.rows * g.rowBytes - g.bytesLeft := fun n => by simp [Segment.reached, hd]
    refine ⟨hlaw, ?_, ?_⟩
    · show (s.upload.fifo ++ [v]).length ≤ _
      omega
    · rw [hreached] at hcursor ⊢
      exact hcursor
  · rw [show s.upload.cur = none from hn] at hg
    cases hg
  · show (s.upload.fifo ++ [v]).length ≤ 8
    omega
  · refine (uploadRequest_isSome_iff (g := g) ?_).mpr (.inl ⟨hd, ?_⟩)
    · exact hg
    · exact List.append_ne_nil_of_right_ne_nil _ (List.cons_ne_nil v [])

theorem dataWriteOp_keepsUpload (v : Byte) (s : State) : s.KeepsUpload (dataWriteOp v s) := by
  unfold dataWriteOp
  split
  · exact .refl s
  · split
    · exact fifoJoined_keepsUpload (by assumption) v
    · exact keepsUpload_of_eq rfl rfl rfl rfl rfl

section
variable {s : State} {g : Segment} {v : Byte} {rest : List Byte} (hg : s.upload.cur = some g) (hd : g.direction = .dirOut)
  (hf : s.upload.fifo = v :: rest)

theorem takeDataByte_upload : (takeDataByte g v rest s).upload =
    if g.bytesLeft - 1 = 0 then ⟨s.upload.nxt, none, rest⟩
    else ⟨some { g with bytesLeft := g.bytesLeft - 1 }, s.upload.nxt, rest⟩ :=
  setCurrent_upload _ _ _

include hg hd hf

/-- A byte taken from the FIFO of an OUT segment leaves the byte to prefetch next where it was: one byte fewer is left, and one
byte fewer is held (R142, R143). -/
theorem takeDataByte_lawful (hu : s.upload.Lawful) : (takeDataByte g v rest s).upload.Lawful := by
  obtain ⟨⟨hrow, hrow', hrows, hrows', hstride, hstride', hpos, hleft, htotal, hspan⟩, hheld, hcursor⟩ := hu.cur g hg
  have hdepth := hu.depth
  have hlength : s.upload.fifo.length = rest.length + 1 := by rw [hf, List.length_cons]
  rw [takeDataByte_upload]
  split
  · have hempty : rest = [] := List.length_eq_zero_iff.mp (by omega)
    rw [hempty]
    exact hu.ended
  · refine ⟨fun k hk => ?_, hu.nxt, fun hn => (by cases hn), by dsimp only; omega⟩
    obtain rfl := Option.some.inj hk
    have hreached : Segment.reached { g with bytesLeft := g.bytesLeft - 1 } rest.length = g.reached s.upload.fifo.length := by
      simp only [Segment.reached, hd, if_true]
      omega
    dsimp only
    rw [hreached]
    exact ⟨⟨hrow, hrow', hrows, hrows', hstride, hstride', hpos, by dsimp only; omega, by dsimp only; omega,
      hspan⟩, by omega, hcursor⟩

/-- A prefetch asked for is asked for on when a byte has been taken: the segment has not ended (R142). -/
theorem takeDataByte_asks (h : (uploadRequest s).isSome = true) :
    (uploadRequest (takeDataByte g v rest s)).isSome = true := by
  have hlength : s.upload.fifo.length = rest.length + 1 := by rw [hf, List.length_cons]
  obtain ⟨hin, -⟩ | ⟨-, hroom, hmore⟩ := (uploadRequest_isSome_iff hg).mp h
  · rw [hd] at hin
    cases hin
  · have hupload := takeDataByte_upload (s := s) (g := g) (v := v) (rest := rest)
    rw [if_neg (by omega)] at hupload
    refine (uploadRequest_isSome_iff (congrArg Upload.cur hupload)).mpr (.inr ⟨hd, ?_⟩)
    rw [hupload]
    dsimp only
    omega

theorem takeDataByte_keepsUpload : s.KeepsUpload (takeDataByte g v rest s) := by
  have hsame : SameLabel { s with dataOut := v } (takeDataByte g v rest s) := setCurrent_sameLabel _ _ _
  refine ⟨fun h => ?_, (keepsZone_of_eq hsame.ring hsame.jobs).zoneGuarded hsame.headCfg ?_⟩
  · obtain ⟨hu, hlive⟩ := (uploadLawful_iff s).mp h
    refine (uploadLawful_iff _).mpr ⟨takeDataByte_lawful hg hd hf hu, fun a ha hl hc => ?_⟩
    exact takeDataByte_asks hg hd hf (hlive a (hsame.inProgress ▸ ha) hl hc)
  · exact setCurrent_spans (s := { s with dataOut := v }) (k := { g with bytesLeft := g.bytesLeft - 1 }) hg rfl rfl rest

end

theorem dataReadOp_keepsUpload (s : State) : s.KeepsUpload (dataReadOp s) := by
  unfold dataReadOp
  split
  · exact keepsUpload_of_eq rfl rfl rfl rfl rfl
  · split
    · rename_i g v rest hg hf
      split
      · exact takeDataByte_keepsUpload hg (by assumption) hf
      · exact keepsUpload_of_eq rfl rfl rfl rfl rfl
    · exact keepsUpload_of_eq rfl rfl rfl rfl rfl

end Sys2Proof.Machine
end

section
/-! Every step keeps the law of the upload channel and the guard of the band zone (R136 to R144, R150). -/

namespace Sys2Proof.Machine

/-! ### The ends that an access brings about, and the grant (R74, R96, R108, R128, R133) -/

theorem takeReading_keepsUpload (s : State) : s.KeepsUpload (takeReading s) := by
  unfold takeReading
  split <;> exact keepsUpload_of_eq rfl rfl rfl rfl rfl

theorem restServed_keepsUpload (left : Bool) (k : Rotating) (s : State) : s.KeepsUpload (s.restServed left k) :=
  keepsUpload_of_eq rfl rfl rfl rfl rfl

theorem endClear_keepsUpload (a : Nat) (s : State) : s.KeepsUpload (endClear a s) := keepsUpload_of_eq rfl rfl rfl rfl rfl

theorem finishClear_keepsUpload (s : State) : s.KeepsUpload (finishClear s) := by
  unfold finishClear
  split
  · exact (endClear_keepsUpload _ s).trans (restServed_keepsUpload _ _ _)
  · exact .refl s

theorem endFetch_keepsUpload (s : State) : s.KeepsUpload (endFetch s) :=
  (endFetch_labelOnly s).keepsUpload (endFetch_keepsAccess s) (endFetch_keepsZone s)

theorem finishBand_keepsUpload (s : State) : s.KeepsUpload (finishBand s) := by
  unfold finishBand
  split
  · rename_i w _
    exact .trans (t := { s with mem := composeRest s w }) (keepsUpload_of_eq rfl rfl rfl rfl rfl)
      ((bandDone_labelOnly w _).keepsUpload (bandDone_keepsAccess w _) (bandDone_keepsZone w _))
  · exact .refl s

theorem look_keepsUpload (s : State) : s.KeepsUpload (look s) :=
  (look_labelOnly s).keepsUpload (keepsAccess_of_eq (look_arbiter s)) (look_keepsZone s)

theorem complete_keepsUpload (r : Reply) (s : State) : s.KeepsUpload (complete r s) := keepsUpload_of_eq rfl rfl rfl rfl rfl

theorem endProof_keepsUpload (s : State) : s.KeepsUpload (endProof s) := by
  unfold endProof
  split
  · exact .trans (t := { s with port := { s.port with proof := none } }) (keepsUpload_of_eq rfl rfl rfl rfl rfl)
      ((complete_keepsUpload _ _).trans (look_keepsUpload _))
  · exact .refl s

theorem dueClear_keepsUpload (s : State) : s.KeepsUpload (dueClear s) := by
  unfold dueClear
  split
  · split
    · exact endClear_keepsUpload _ s
    · exact .refl s
  · exact .refl s

theorem dueFetch_keepsUpload (s : State) : s.KeepsUpload (dueFetch s) := by
  unfold dueFetch
  split
  · split
    · exact endFetch_keepsUpload s
    · exact .refl s
  · exact .refl s

theorem dueBand_keepsUpload (s : State) : s.KeepsUpload (dueBand s) := by
  unfold dueBand
  split
  · exact finishBand_keepsUpload s
  · exact .refl s

theorem dueProof_keepsUpload (s : State) : s.KeepsUpload (dueProof s) := by
  unfold dueProof
  split
  · split
    · exact endProof_keepsUpload s
    · exact .refl s
  · exact .refl s

theorem grant_keepsUpload (s : State) : s.KeepsUpload (grant s) :=
  ⟨grant_uploadLawful, (keepsZone_of_eq (grant_ring s) (grant_jobs s)).zoneGuarded (grant_labelOnly s).headCfg
    (grant_upload s ▸ .refl _)⟩

/-- The ends that an access brings about, and the next grant (R128, R130). -/
theorem regrant_due_keepsUpload (s : State) : s.KeepsUpload (regrant (due s)) := by
  have hdue : s.KeepsUpload (due s) :=
    (((dueClear_keepsUpload s).trans (dueFetch_keepsUpload _)).trans (dueBand_keepsUpload _)).trans (dueProof_keepsUpload _)
  unfold regrant
  split
  · exact hdue
  · exact hdue.trans (grant_keepsUpload _)

theorem timers_keepsUpload (s : State) : s.KeepsUpload (timers s) :=
  (timers_labelOnly s).keepsUpload (timers_keepsAccess s) (timers_keepsZone s)

/-! ### LOAD_SEGMENT (R138, R139, R150) -/

/-- LOAD_SEGMENT takes a segment of lawful ranges, its cursor at its first byte and all its bytes left, and clear of the band zone
while a job is present (R138). -/
theorem loadSegmentCheck_ok {ps : List Byte} {s : State} {g : Segment} (h : loadSegmentCheck ps s = .ok g) :
    (g.lawful ∧ g.cursorAt 0 ∧ g.bytesLeft = g.rows * g.rowBytes) ∧
      (s.jobs.isEmpty = false → s.overlapsZone g.address g.spanEnd = false) := by
  rw [loadSegmentCheck_eq] at h
  split at h
  · cases h
  split at h
  · cases h
  rename_i hrange
  split at h
  · cases h
  split at h
  · cases h
  rename_i hinside
  split at h
  · cases h
  rename_i hzone
  obtain rfl := Except.ok.inj h
  simp only [not_or, Nat.not_lt] at hrange
  obtain ⟨-, hrow, hrow', hrows, hrows', hstride, hstride'⟩ := hrange
  refine ⟨⟨⟨hrow, hrow', hrows, hrows', hstride, hstride', hrow, Nat.mul_pos hrows hrow, Nat.le_refl _, Nat.not_lt.mp hinside⟩,
    ?_, rfl⟩, fun hp => ?_⟩
  · simp [Segment.cursorAt]
  · rw [← Bool.not_eq_true, overlapsZone_iff]
    rw [← Bool.not_eq_true, isEmpty_iff, not_not] at hp
    exact fun ho => hzone ⟨hp, ho⟩

/-- The segment taken stands in its slot at its first byte (R139). -/
theorem loadSegmentAct_lawful {ps : List Byte} {s : State} {g : Segment} (hc : loadSegmentCheck ps s = .ok g)
    (h : s.uploadLawful) : (loadSegmentAct g s).uploadLawful := by
  obtain ⟨⟨hlaw, hcursor, htotal⟩, -⟩ := loadSegmentCheck_ok hc
  obtain ⟨hu, hlive⟩ := (uploadLawful_iff s).mp h
  unfold loadSegmentAct
  split
  · rename_i hidle
    obtain ⟨hnxt, hfifo⟩ := hu.idle hidle
    refine (uploadLawful_iff _).mpr ⟨⟨fun k hk => ?_, hu.nxt, fun hn => (by cases hn), hu.depth⟩, fun a ha hl hown => ?_⟩
    · obtain rfl := Option.some.inj hk
      have hreached : g.reached 0 = 0 := by
        unfold Segment.reached
        rw [htotal, Nat.sub_self, ite_self]
      dsimp only
      rw [hfifo, List.length_nil, hreached]
      exact ⟨hlaw, Nat.zero_le _, hcursor⟩
    · have hasked := hlive a ha hl hown
      simp [uploadRequest, hidle] at hasked
  · rename_i k hk
    refine (uploadLawful_iff _).mpr ⟨⟨hu.cur, fun l hl => ?_, fun hn => ?_, hu.depth⟩, fun a ha hl hown => ?_⟩
    · obtain rfl := Option.some.inj hl
      exact ⟨hlaw, hcursor, htotal⟩
    · exact absurd (hk.symm.trans hn) (by simp)
    · exact (uploadRequest_isSome_iff hk).mpr ((uploadRequest_isSome_iff hk).mp (hlive a ha hl hown))

/-- LOAD_SEGMENT changes the channel alone, and loads no other segment. -/
theorem loadSegmentAct_frame (g : Segment) (s : State) :
    ∃ u, loadSegmentAct g s = { s with upload := u } ∧ ∀ k, u.Loaded k → k = g ∨ s.upload.Loaded k := by
  unfold loadSegmentAct
  split
  · refine ⟨_, rfl, ?_⟩
    rintro k (hk | hk)
    · exact .inl (Option.some.inj hk).symm
    · exact .inr (.inr hk)
  · refine ⟨_, rfl, ?_⟩
    rintro k (hk | hk)
    · exact .inr (.inl hk)
    · exact .inl (Option.some.inj hk).symm

theorem loadSegmentAct_keepsUpload {ps : List Byte} {s : State} {g : Segment} (hc : loadSegmentCheck ps s = .ok g) :
    s.KeepsUpload (loadSegmentAct g s) := by
  refine ⟨loadSegmentAct_lawful hc, fun h => ?_⟩
  obtain ⟨-, hclear⟩ := loadSegmentCheck_ok hc
  obtain ⟨u, he, hu⟩ := loadSegmentAct_frame g s
  rw [zoneGuarded_iff] at h
  rw [he, zoneGuarded_iff]
  intro hp k hk
  rcases hu k hk with rfl | hk
  · exact hclear hp
  · exact h hp k hk

/-! ### OPEN_JOB, STOP_UPLOAD and SOFT_RESET (R6, R7, R148, R175) -/

/-- OPEN_JOB is refused with a loaded segment over the band zone (R6). -/
theorem openJobCheck_zone {ps : List Byte} {s : State} {p : OpenParams} (h : openJobCheck ps s = .ok p) :
    s.slotOverZone s.upload.cur = false ∧ s.slotOverZone s.upload.nxt = false := by
  unfold openJobCheck at h
  split at h
  swap
  · cases h
  split at h
  · cases h
  split at h
  · cases h
  split at h
  · cases h
  · rename_i hz
    simpa using hz

/-- But for the job that it opens, OPEN_JOB keeps the zone (R7). -/
theorem openJobAct_keepsZone (p : OpenParams) (s : State) : ∃ t, (s.withJobs t).KeepsZone (openJobAct p s) := by
  unfold openJobAct
  split
  · have hsettled := settle_keepsZone { s with
      jobs := { s.jobs with front := some p.job }
      head := { s.head with history := List.replicate s.headCfg.lineBytes 0x00, started := false } }
    exact ⟨{ s.jobs with front := some p.job }, hsettled.trans (look_keepsZone _)⟩
  · exact ⟨_, look_keepsZone _⟩

theorem openJobAct_keepsUpload {ps : List Byte} {s : State} {p : OpenParams} (hc : openJobCheck ps s = .ok p) :
    s.KeepsUpload (openJobAct p s) := by
  have hl := openJobAct_labelOnly hc
  obtain ⟨t, hz⟩ := openJobAct_keepsZone p s
  have hclear := openJobCheck_zone hc
  have hguard : (s.withJobs t).zoneGuarded := fun _ => hclear
  exact ⟨hl.uploadLawful (openJobAct_keepsAccess p s), fun _ => hz.zoneGuarded hl.headCfg (hl.upload ▸ .refl _) hguard⟩

/-- STOP_UPLOAD empties the channel, and its access in progress is performed for nothing (R129, R148). -/
theorem stopUploadAct_keepsUpload (s : State) : s.KeepsUpload (stopUploadAct s) := by
  refine keepsUpload_of_idle rfl fun a ha hl hc => ?_
  obtain ⟨b, -, rfl⟩ := Option.map_eq_some_iff.mp (show (s.arbiter.inProgress.map _) = some a from ha)
  split at hl
  · cases hl
  · rename_i hn
    rw [if_neg hn] at hc
    exact hn hc

theorem softResetAct_keepsUpload (s : State) : s.KeepsUpload (softResetAct s) :=
  keepsUpload_of_idle rfl fun _ ha => (by cases ha)

/-! ### A CMD write (R164 to R168) -/

/-- A command that checks its parameters answers the refusal, or does what its act does. -/
theorem checked_keepsUpload {α : Type} {s : State} (c : Except ResultCode α) (act : α → State × Option Reply)
    (h : ∀ v, c = .ok v → s.KeepsUpload (completeWith (act v))) : s.KeepsUpload (completeWith (checked c act s)) := by
  cases hc : c with
  | error r => exact complete_keepsUpload ⟨r, []⟩ s
  | ok v => exact h v hc

/-- The command a code names: LOAD_SEGMENT and OPEN_JOB by their checks, the configurations with no job present (R62, R100). -/
theorem bodyOf_keepsUpload (code : Byte) (ps : List Byte) (s : State) : s.KeepsUpload (completeWith (bodyOf code ps s)) := by
  have accepted : ∀ {answer : List Byte} {u : State}, s.KeepsUpload u → s.KeepsUpload (completeWith (accept answer u)) :=
    fun hu => hu.trans (complete_keepsUpload _ _)
  have configured : ∀ {u : State}, s.jobs = ⟨none, none⟩ → u.jobs = s.jobs → u.upload = s.upload →
      u.arbiter.inProgress = s.arbiter.inProgress → s.KeepsUpload u := fun he hj hu ha =>
    ⟨uploadLawful_congr hu ha, fun _ => zoneGuarded_of_empty (hj.trans he)⟩
  generalize hb : bodyOf code = body
  unfold bodyOf at hb
  split at hb <;> subst hb
  · exact checked_keepsUpload _ _ fun c hc => accepted (configured (setHeadCheck_ok hc).1 rfl rfl rfl)
  · exact checked_keepsUpload _ _ fun p hc => accepted (configured (setBandsCheck_ok hc).1 rfl rfl rfl)
  · exact checked_keepsUpload _ _ fun e _ => accepted (keepsUpload_of_eq rfl rfl rfl rfl rfl)
  · exact checked_keepsUpload _ _ fun c _ => accepted (keepsUpload_of_eq rfl rfl rfl rfl rfl)
  · exact checked_keepsUpload _ _ fun p hc => accepted (openJobAct_keepsUpload hc)
  · exact checked_keepsUpload _ _ fun x _ => accepted
      ((commitAct_labelOnly x.1 x.2 s).keepsUpload (commitAct_keepsAccess x.1 x.2 s) (commitAct_keepsZone x.1 x.2 s))
  · exact checked_keepsUpload _ _ fun j _ => accepted
      ((look_withJobs_labelOnly _ s).keepsUpload (keepsAccess_of_eq (look_arbiter _)) (closeJobAct_keepsZone j s))
  · exact checked_keepsUpload _ _ fun j _ => accepted
      ((abortJobAct_labelOnly j s).keepsUpload (abortJobAct_keepsAccess j s) (abortJobAct_keepsZone j s))
  · exact checked_keepsUpload _ _ fun _ _ => accepted (.refl s)
  · exact checked_keepsUpload _ _ fun p _ => accepted (keepsUpload_of_eq rfl rfl rfl rfl rfl)
  · exact checked_keepsUpload _ _ fun h _ => accepted (keepsUpload_of_eq rfl rfl rfl rfl rfl)
  · exact checked_keepsUpload _ _ fun g hc => accepted (loadSegmentAct_keepsUpload hc)
  · exact checked_keepsUpload _ _ fun _ _ => accepted (stopUploadAct_keepsUpload s)
  · exact checked_keepsUpload _ _ fun c _ => keepsUpload_of_eq rfl rfl rfl rfl rfl
  · exact accepted (softResetAct_keepsUpload s)
  · exact complete_keepsUpload ⟨.unknownCommand, []⟩ s

theorem writeCmd_keepsUpload (code : Byte) (s : State) : s.KeepsUpload (writeCmd code s) := by
  have htake : s.KeepsUpload (take code s) := keepsUpload_of_eq rfl rfl rfl rfl rfl
  unfold writeCmd offer
  split
  · exact .refl s
  · split
    · exact htake.trans (bodyOf_keepsUpload code _ _)
    · exact keepsUpload_of_eq rfl rfl rfl rfl rfl

/-! ### The other accesses of the window, and the input pins (R132, R154 to R173) -/

theorem paramWriteOp_keepsUpload (v : Byte) (s : State) : s.KeepsUpload (paramWriteOp v s) := by
  unfold paramWriteOp
  split
  · exact .refl s
  · split <;> exact keepsUpload_of_eq rfl rfl rfl rfl rfl

theorem answerReadOp_keepsUpload (s : State) : s.KeepsUpload (answerReadOp s) := by
  unfold answerReadOp
  split
  · exact keepsUpload_of_eq rfl rfl rfl rfl rfl
  · split <;> exact keepsUpload_of_eq rfl rfl rfl rfl rfl

theorem reportReadOp_keepsUpload (s : State) : s.KeepsUpload (reportReadOp s) := by
  unfold reportReadOp
  split <;> exact keepsUpload_of_eq rfl rfl rfl rfl rfl

theorem irqPendWriteOp_keepsUpload (v : Byte) (s : State) : s.KeepsUpload (irqPendWriteOp v s) := by
  unfold irqPendWriteOp
  split <;> exact keepsUpload_of_eq rfl rfl rfl rfl rfl

theorem irqEnWriteOp_keepsUpload (v : Byte) (s : State) : s.KeepsUpload (irqEnWriteOp v s) := by
  unfold irqEnWriteOp
  split <;> exact keepsUpload_of_eq rfl rfl rfl rfl rfl

theorem rowDoneLowReadOp_keepsUpload (s : State) : s.KeepsUpload (rowDoneLowReadOp s) := by
  unfold rowDoneLowReadOp
  split <;> exact keepsUpload_of_eq rfl rfl rfl rfl rfl

theorem stickyWriteOp_keepsUpload (v : Byte) (s : State) : s.KeepsUpload (stickyWriteOp v s) := by
  unfold stickyWriteOp
  split <;> exact keepsUpload_of_eq rfl rfl rfl rfl rfl

theorem writeRegister_keepsUpload (offset : BitVec 4) (v : Byte) (s : State) : s.KeepsUpload (writeRegister offset v s) := by
  unfold writeRegister
  split
  · exact writeCmd_keepsUpload v s
  · exact paramWriteOp_keepsUpload v s
  · exact dataWriteOp_keepsUpload v s
  · exact irqPendWriteOp_keepsUpload v s
  · exact irqEnWriteOp_keepsUpload v s
  · exact stickyWriteOp_keepsUpload v s
  · exact .refl s

theorem inReset_keepsUpload (phase : PowerPhase) (s : State) : s.KeepsUpload (s.inReset phase) :=
  keepsUpload_of_idle rfl fun _ ha => (by cases ha)

theorem resetReleasedOp_keepsUpload (s : State) : s.KeepsUpload (resetReleasedOp s) := by
  unfold resetReleasedOp
  split
  · exact inReset_keepsUpload _ s
  · exact .refl s

theorem paperChangeOp_keepsUpload (b : Bool) (s : State) : s.KeepsUpload (paperChangeOp b s) := by
  unfold paperChangeOp
  dsimp only
  split
  · exact keepsUpload_of_eq rfl rfl rfl rfl rfl
  · split <;> exact keepsUpload_of_eq rfl rfl rfl rfl rfl

theorem hotChangeOp_keepsUpload (b : Bool) (s : State) : s.KeepsUpload (hotChangeOp b s) := by
  have hlatched : s.KeepsUpload ({ s with hot := b } : State).latchInput := keepsUpload_of_eq rfl rfl rfl rfl rfl
  unfold hotChangeOp
  dsimp only
  split
  · exact keepsUpload_of_eq rfl rfl rfl rfl rfl
  · split
    · exact keepsUpload_of_eq rfl rfl rfl rfl rfl
    · split
      · exact hlatched
      · exact hlatched.trans
          ((releaseHold_labelOnly _).keepsUpload (releaseHold_keepsAccess _) (releaseHold_keepsZone _))

/-! ### The rows of the store and the prefetch (R141, R142, log entry 8) -/

/-- UPLOAD_STORE goes on by the access in progress, or by that access and then the store. -/
theorem uploadStore_keepsUpload {s t : State} (h : exec .uploadStore s = .next t) : s.KeepsUpload t := by
  simp only [exec, execUploadStore] at h
  split at h
  swap
  · exact Host.Outcome.next.inj h ▸ .refl s
  rename_i g v _ hg _
  split at h
  swap
  · exact Host.Outcome.next.inj h ▸ .refl s
  rename_i hd
  split at h
  swap
  · cases h
  refine Host.Outcome.next.inj h ▸ ?_
  split
  · exact perform_keepsUpload s
  · rename_i hown
    have hupload := perform_upload_of_other (Bool.eq_false_iff.mpr hown)
    exact (perform_keepsUpload s).trans (storeNow_keepsUpload (performed s).inProgress (hupload ▸ hg) hd v)

/-- UPLOAD_PREFETCH goes on by the access in progress, or by that access and then the prefetch. -/
theorem uploadPrefetch_keepsUpload {s t : State} (h : exec .uploadPrefetch s = .next t) : s.KeepsUpload t := by
  simp only [exec, execUploadPrefetch] at h
  split at h
  swap
  · exact Host.Outcome.next.inj h ▸ .refl s
  rename_i g hg
  split at h
  swap
  · exact Host.Outcome.next.inj h ▸ .refl s
  rename_i hasks
  split at h
  swap
  · cases h
  refine Host.Outcome.next.inj h ▸ ?_
  split
  · exact perform_keepsUpload s
  · rename_i hown
    have hupload := perform_upload_of_other (Bool.eq_false_iff.mpr hown)
    have hwants := hasks.2.resolve_left hown
    exact (perform_keepsUpload s).trans
      (prefetchNow_keepsUpload (performed s).inProgress (hupload ▸ hg) (hupload ▸ hwants))

/-! ### Every row and every step -/

theorem exec_keepsUpload {i : Instr} {s t : State} (h : exec i s = .next t) : s.KeepsUpload t := by
  have next : ∀ {u : State}, (Host.Outcome.next u : Host.Outcome State Fault Refusal) = .next t → s.KeepsUpload u →
      s.KeepsUpload t := fun h hk => Host.Outcome.next.inj h ▸ hk
  have guarded : ∀ {c : Bool} {u : State}, (if c = true then (.next u : Host.Outcome State Fault Refusal)
      else .fault .addressOutsideMemory) = .next t → s.KeepsUpload u → s.KeepsUpload t := fun {c u} h hk => by
    cases c with
    | false => cases h
    | true => exact next h hk
  have hp := perform_keepsUpload s
  cases i with
  | softReset | setHead | setBands | defineGlyph | restoreGlyph | openJob | place | withdraw | commit | closeJob | abortJob
  | queryJob | loadSegment | stopUpload | proof => exact next h (writeCmd_keepsUpload _ s)
  | unknownCommand code => exact next h (writeCmd_keepsUpload code s)
  | cmdWriteRefused code => exact next h (writeCmd_keepsUpload code s)
  | paramWrite v => exact next h (paramWriteOp_keepsUpload v s)
  | answerRead => exact next h (answerReadOp_keepsUpload s)
  | dataWrite v => exact next h (dataWriteOp_keepsUpload v s)
  | dataRead => exact next h (dataReadOp_keepsUpload s)
  | reportRead => exact next h (reportReadOp_keepsUpload s)
  | irqPendWrite v => exact next h (irqPendWriteOp_keepsUpload v s)
  | irqEnWrite v => exact next h (irqEnWriteOp_keepsUpload v s)
  | rowDoneLowRead => exact next h (rowDoneLowReadOp_keepsUpload s)
  | stickyWrite v => exact next h (stickyWriteOp_keepsUpload v s)
  | registerWriteDiscarded offset v => exact next h (writeRegister_keepsUpload offset v s)
  | resetAsserted => exact next h (inReset_keepsUpload _ s)
  | resetReleased => exact next h (resetReleasedOp_keepsUpload s)
  | lineStep =>
    exact next h ((lineStepOp_labelOnly s).keepsUpload (lineStepOp_keepsAccess s) (lineStepOp_keepsZone s))
  | hotChange b => exact next h (hotChangeOp_keepsUpload b s)
  | paperChange b => exact next h (paperChangeOp_keepsUpload b s)
  | shiftEnd => exact next h ((endShift_labelOnly s).keepsUpload (endShift_keepsAccess s) (endShift_keepsZone s))
  | strobePulseEnd => exact next h ((endPulse_labelOnly s).keepsUpload (endPulse_keepsAccess s) (endPulse_keepsZone s))
  | hotHoldExpire =>
    exact next h ((expireHold_labelOnly s).keepsUpload (expireHold_keepsAccess s) (expireHold_keepsZone s))
  | powerOnClearComplete =>
    simp only [exec, execPowerOnClearComplete] at h
    split at h
    · exact guarded h (hp.trans (finishClear_keepsUpload _))
    · exact next h (.refl s)
  | lineFetchEnd =>
    simp only [exec, execLineFetchEnd] at h
    split at h
    · exact guarded h (hp.trans (endFetch_keepsUpload _))
    · exact next h (.refl s)
  | bandComplete =>
    simp only [exec, execBandComplete] at h
    split at h
    · exact guarded h ((hp.trans (restServed_keepsUpload _ _ _)).trans (finishBand_keepsUpload _))
    · exact next h (.refl s)
  | proofCopyComplete =>
    simp only [exec, execProofCopyComplete] at h
    split at h
    · exact guarded h ((hp.trans (restServed_keepsUpload _ _ _)).trans (endProof_keepsUpload _))
    · exact next h (.refl s)
  | uploadStore => exact uploadStore_keepsUpload h
  | uploadPrefetch => exact uploadPrefetch_keepsUpload h

/-- The internal step: with RESET asserted nothing, at a reading that reading, and otherwise a period of CLKIN (log entry 5). -/
theorem tick_keepsUpload {s t : State} (h : tick s = .next t) : s.KeepsUpload t := by
  simp only [tick] at h
  split at h
  · exact Host.Outcome.next.inj h ▸ .refl s
  split at h
  · exact Host.Outcome.next.inj h ▸ (takeReading_keepsUpload s).trans (regrant_due_keepsUpload _)
  split at h
  · exact Host.Outcome.next.inj h ▸ (((timers_keepsUpload s).trans (grant_keepsUpload _)).trans (perform_keepsUpload _)).trans
      (regrant_due_keepsUpload _)
  · cases h

/-- Settles O54: every row and the internal step, by the moves of the channel (`perform_keepsUpload`) and by what the other
operations leave as it is (`LabelOnly.keepsUpload`). -/
theorem everyStepKeepsTheUploadLaw : Obligations.EveryStepKeepsTheUploadLaw := by
  intro s t hstep
  have hkeeps : s.KeepsUpload t := by
    unfold step at hstep
    split at hstep
    · exact tick_keepsUpload hstep
    · rename_i i rest _
      exact .trans (t := { s with pending := rest }) (keepsUpload_of_eq rfl rfl rfl rfl rfl) (exec_keepsUpload hstep)
  exact ⟨hkeeps.law, hkeeps.guard⟩

end Sys2Proof.Machine
end

section
/-! The law of the report queue (R151, R153), operation by operation of the label: reports are posted, and nothing else is done to
the queue. -/

namespace Sys2Proof.Machine

section
variable {s : State} (h : s.reports.lawful)
include h

/-! ### Completion and abort (R13 to R21) -/

theorem look_reports_lawful : (look s).reports.lawful := by rwa [look_reports]

theorem settle_reports_lawful : (settle s).reports.lawful := by rwa [settle_reports]

theorem freeJob_reports_lawful (tag : Byte) (keep : Bool) : (freeJob tag keep s).reports.lawful := by rwa [freeJob_reports]

theorem frontLeaves_reports_lawful : (frontLeaves s).reports.lawful := by rwa [frontLeaves_reports]

theorem completeFront_reports_lawful (j : Job) : (completeFront j s).reports.lawful :=
  look_reports_lawful (frontLeaves_reports_lawful (freeJob_reports_lawful (post_lawful _ h) _ _))

theorem completeIfDone_reports_lawful : (completeIfDone s).reports.lawful := by
  rcases completeIfDone_cases s with e | ⟨j, -, -, -, e⟩ <;> rw [e]
  · exact h
  · exact completeFront_reports_lawful h j

theorem abortFrontAtOnce_reports_lawful (j : Job) (cause : AbortCause) : (abortFrontAtOnce j cause s).reports.lawful :=
  look_reports_lawful (frontLeaves_reports_lawful (post_lawful _ (freeJob_reports_lawful h _ _)))

theorem abortBack_reports_lawful (j : Job) : (abortBack j s).reports.lawful := by
  have hposted := post_lawful (reportJobAborted j .host) (freeJob_reports_lawful h j.tag false)
  exact look_reports_lawful (s := State.withJobs _ _) hposted

theorem abortInFlight_reports_lawful (cause : AbortCause) : (abortInFlight cause s).reports.lawful := by
  unfold abortInFlight
  split
  · split
    · exact h
    · exact look_reports_lawful (freeJob_reports_lawful (s := s.updateFront _) h _ _)
  · exact h

theorem endAbort_reports_lawful : (endAbort s).reports.lawful := by
  unfold endAbort
  split
  · split
    · exact look_reports_lawful (frontLeaves_reports_lawful (post_lawful _ (s := s.freeJobBands _ _) h))
    · exact h
  · exact h

/-! ### A step consumed with no line in flight (R105 to R107, R113, R114, R117) -/

theorem trailingStep_reports_lawful : (trailingStep s).reports.lawful :=
  settle_reports_lawful (completeIfDone_reports_lawful (s := s.clearHistory.advanceDone) h)

theorem startLine_reports_lawful (j : Job) (i : Nat) : (startLine j i s).reports.lawful := by
  unfold startLine
  split <;> exact h

theorem underrunStep_reports_lawful (j : Job) : (underrunStep j s).reports.lawful := by
  unfold underrunStep
  split
  · exact settle_reports_lawful (completeIfDone_reports_lawful (post_lawful _ (s := s.clearHistory.advanceBlank) h))
  · exact settle_reports_lawful (abortFrontAtOnce_reports_lawful h j .underrun)

theorem armedStep_reports_lawful (j : Job) : (armedStep j s).reports.lawful := by
  unfold armedStep
  split
  · exact trailingStep_reports_lawful h
  · split
    · exact startLine_reports_lawful h j _
    · exact underrunStep_reports_lawful h j

theorem servedStep_reports_lawful : (servedStep s).reports.lawful := by
  unfold servedStep
  split
  · exact settle_reports_lawful h
  · split
    · exact armedStep_reports_lawful h _
    · exact underrunStep_reports_lawful h _

theorem serveLatch_reports_lawful : (serveLatch s).reports.lawful := by
  unfold serveLatch
  split
  · exact servedStep_reports_lawful (s := { s with head := _ }) h
  · exact settle_reports_lawful (s := s.withMode .idle) h

/-! ### The end of a line (R69, R110, R116, R120) -/

theorem endAbortOrComplete_reports_lawful : (endAbortOrComplete s).reports.lawful := by
  unfold endAbortOrComplete
  split
  · split
    · exact endAbort_reports_lawful h
    · exact completeIfDone_reports_lawful h
  · exact h

theorem endLine_reports_lawful (line : Line) : (endLine line s).reports.lawful := by
  have hreleased : (releaseBand line (printed line s)).reports.lawful := by rwa [releaseBand_reports]
  exact serveLatch_reports_lawful (endAbortOrComplete_reports_lawful hreleased)

theorem abandonLine_reports_lawful : (abandonLine s).reports.lawful :=
  serveLatch_reports_lawful (s := (endAbort s).orphan .fetch) (endAbort_reports_lawful h)

/-! ### Shifts, pulses and line steps (R105, R108 to R111, R118 to R120) -/

/-- The first pulse of a job posts PRINT_STARTED (R111). -/
theorem startPulse_reports_lawful (p : Pass) (line : Line) : (startPulse p line s).reports.lawful := by
  unfold startPulse markStarted
  split
  · exact h
  · exact post_lawful _ (s := { s with head := { s.head with started := true } }) h

theorem takeUpGroup_reports_lawful (p : Pass) (k : Nat) (line : Line) : (takeUpGroup p k line s).reports.lawful := by
  unfold takeUpGroup
  split
  · split
    · exact h
    · exact startPulse_reports_lawful h p _
  · split
    · exact h
    · exact endLine_reports_lawful h line

theorem lineFetched_reports_lawful (line : Line) : (lineFetched line s).reports.lawful := by
  unfold lineFetched
  split
  · dsimp only
    split <;> exact h
  · exact endLine_reports_lawful h line

theorem endFetch_reports_lawful : (endFetch s).reports.lawful := by
  unfold endFetch
  split
  · exact lineFetched_reports_lawful h _
  · exact h

theorem endShift_reports_lawful : (endShift s).reports.lawful := by
  unfold endShift
  split
  · exact takeUpGroup_reports_lawful h _ 1 _
  · exact h

theorem endPulse_reports_lawful : (endPulse s).reports.lawful := by
  unfold endPulse
  split
  · split
    · exact abandonLine_reports_lawful h
    · exact takeUpGroup_reports_lawful h _ _ _
  · exact h

theorem expireHold_reports_lawful : (expireHold s).reports.lawful := by
  unfold expireHold
  split
  · exact abandonLine_reports_lawful (abortInFlight_reports_lawful h .headHot)
  · exact h

theorem releaseHold_reports_lawful : (releaseHold s).reports.lawful := by
  unfold releaseHold
  split
  · exact startPulse_reports_lawful h _ _
  · exact h

theorem loseStep_reports_lawful (phase : LinePhase) (line : Line) : (loseStep phase line s).reports.lawful := by
  have ht := abortInFlight_reports_lawful (s := { s with
    head := { s.head with latch := false, mode := .inFlight phase { line with ending := true } } }) h .stepLost
  unfold loseStep
  dsimp only
  split
  · exact ht
  · exact abandonLine_reports_lawful ht

theorem lineStepOp_reports_lawful : (lineStepOp s).reports.lawful := by
  unfold lineStepOp
  split
  · split
    · exact h
    · exact underrunStep_reports_lawful h _
    · exact armedStep_reports_lawful h _
    · split
      · exact h
      · split
        · exact loseStep_reports_lawful h _ _
        · exact h
    · exact h
  · exact h

theorem timers_reports_lawful : (timers s).reports.lawful := by
  unfold timers
  split
  · split
    · exact endShift_reports_lawful h
    · exact h
  · split
    · exact endPulse_reports_lawful h
    · exact h
  · split
    · exact expireHold_reports_lawful h
    · exact h
  · exact h

/-! ### The completion of a band, and the job commands (R7, R8, R16, R96) -/

/-- The completion of a band posts RETIRED for the placements that retire (R43, R44). -/
theorem bandDone_reports_lawful (w : Work) : (bandDone w s).reports.lawful := by
  rw [bandDone_completed]
  exact settle_reports_lawful (look_reports_lawful (postAll_lawful _ (s := bandCompleted w s) h))

theorem openJobAct_reports_lawful (p : OpenParams) : (openJobAct p s).reports.lawful := by
  unfold openJobAct
  split
  · exact look_reports_lawful (settle_reports_lawful (s := { s with jobs := _, head := _ }) h)
  · exact look_reports_lawful (s := s.withJobs _) h

theorem commitAct_reports_lawful (j : Job) (row : Nat) : (commitAct j row s).reports.lawful := by
  unfold commitAct
  split
  · exact look_reports_lawful (s := s.withJobs _) h
  · exact h

theorem abortJobAct_reports_lawful (j : Job) : (abortJobAct j s).reports.lawful := by
  unfold abortJobAct
  split
  · split
    · exact abortInFlight_reports_lawful h .host
    · exact settle_reports_lawful (abortFrontAtOnce_reports_lawful h j .host)
  · exact abortBack_reports_lawful h j

end

end Sys2Proof.Machine
end

section
/-! Every step keeps the law of the report queue (R151): its accesses, its commands, its rows and its internal step. -/

namespace Sys2Proof.Machine

/-- The empty queue at a record boundary, as either reset leaves it (R151). -/
theorem empty_reports_lawful : ReportQueue.lawful ⟨[], 0⟩ := ⟨Nat.zero_le _, Nat.zero_le _, fun _ => rfl⟩

/-! ### The access performed (R128, R144) -/

@[simp] theorem land_reports (s : State) (a : Access) : (s.land a).reports = s.reports := by
  unfold State.land
  split <;> rfl

section
variable {s : State} (h : s.reports.lawful)
include h

/-- The end of a segment posts SEGMENT_DONE if its notify is set (R144). -/
theorem setCurrent_reports_lawful (g : Segment) (fifo : List Byte) : (setCurrent g fifo s).reports.lawful := by
  unfold setCurrent endSegment
  dsimp only
  split
  · split
    · exact post_lawful _ (s := { s with upload := { s.upload with cur := some g, fifo := fifo } }) h
    · exact h
  · exact h

theorem progress_reports_lawful (c : Client) (v : Byte) : (progress c v s).reports.lawful := by
  unfold progress
  split
  · split <;> exact h
  · split <;> exact h
  · split
    · split
      · exact setCurrent_reports_lawful h _ _
      · exact h
    · exact h
  · split
    · exact h
    · split <;> exact h

theorem perform_reports_lawful : (perform s).reports.lawful := by
  unfold perform
  split
  · exact h
  · rename_i a _
    have hland : (({ s with arbiter := { s.arbiter with inProgress := none } } : State).land a).reports.lawful := by
      rwa [land_reports]
    dsimp only
    split
    · exact progress_reports_lawful hland _ _
    · exact hland

theorem storeNow_reports_lawful (g : Segment) (v : Byte) : (storeNow g v s).reports.lawful := by
  have hland : ((s.land ⟨.rotating .upload, g.cursor, some v, true⟩).served .upload).reports.lawful := by
    rwa [State.served_reports, land_reports]
  exact setCurrent_reports_lawful hland _ _

theorem takeReading_reports_lawful : (takeReading s).reports.lawful := by
  unfold takeReading
  split <;> exact h

/-! ### The ends of the operations, and the grant (R74, R96, R108, R128, R133) -/

theorem finishClear_reports_lawful : (finishClear s).reports.lawful := by
  unfold finishClear
  split <;> exact h

theorem finishBand_reports_lawful : (finishBand s).reports.lawful := by
  unfold finishBand
  split
  · rename_i w _
    exact bandDone_reports_lawful (s := { s with mem := composeRest s w }) h w
  · exact h

theorem endProof_reports_lawful : (endProof s).reports.lawful := by
  unfold endProof
  split
  · have hcompleted : ∀ r, (complete r { s with port := { s.port with proof := none } }).reports.lawful := fun _ => h
    exact look_reports_lawful (hcompleted _)
  · exact h

theorem dueClear_reports_lawful : (dueClear s).reports.lawful := by
  unfold dueClear
  split
  · split <;> exact h
  · exact h

theorem dueFetch_reports_lawful : (dueFetch s).reports.lawful := by
  unfold dueFetch
  split
  · split
    · exact endFetch_reports_lawful h
    · exact h
  · exact h

theorem dueBand_reports_lawful : (dueBand s).reports.lawful := by
  unfold dueBand
  split
  · exact finishBand_reports_lawful h
  · exact h

theorem dueProof_reports_lawful : (dueProof s).reports.lawful := by
  unfold dueProof
  split
  · split
    · exact endProof_reports_lawful h
    · exact h
  · exact h

theorem regrant_due_reports_lawful : (regrant (due s)).reports.lawful := by
  rw [regrant_arbiter]
  exact dueProof_reports_lawful (dueBand_reports_lawful (dueFetch_reports_lawful (dueClear_reports_lawful h)))

/-! ### A CMD write (R164 to R168) -/

/-- A command taken, but for SOFT_RESET: only ABORT_JOB posts a report (R16, R19). -/
theorem commanded_reports_lawful {ps : List Byte} {t : State} (ht : Commanded ps s t) : t.reports.lawful := by
  cases ht with
  | openJob p _ => exact openJobAct_reports_lawful h p
  | commit x _ => exact commitAct_reports_lawful h x.1 x.2
  | closeJob j _ => exact look_reports_lawful (s := s.withJobs _) h
  | abortJob j _ => exact abortJobAct_reports_lawful h j
  | loadSegment g =>
    show (loadSegmentAct g s).reports.lawful
    unfold loadSegmentAct
    split <;> exact h
  | _ => exact h

theorem writeCmd_reports_lawful (code : Byte) : (writeCmd code s).reports.lawful := by
  have ht := writeCmd_written code s
  generalize writeCmd code s = t at ht
  cases ht with
  | held => exact h
  | refused => exact h
  | softReset _ => exact empty_reports_lawful
  | taken _ _ ht => exact commanded_reports_lawful (s := take code s) h ht

/-! ### The other accesses of the window, and the input pins (R132, R140, R143, R154 to R173) -/

theorem paramWriteOp_reports_lawful (v : Byte) : (paramWriteOp v s).reports.lawful := by
  unfold paramWriteOp
  split
  · exact h
  · split <;> exact h

theorem answerReadOp_reports_lawful : (answerReadOp s).reports.lawful := by
  unfold answerReadOp
  split
  · exact h
  · split <;> exact h

theorem dataWriteOp_reports_lawful (v : Byte) : (dataWriteOp v s).reports.lawful := by
  unfold dataWriteOp
  split
  · exact h
  · split <;> exact h

/-- A DATA read may end its segment (R143, R144). -/
theorem dataReadOp_reports_lawful : (dataReadOp s).reports.lawful := by
  unfold dataReadOp
  split
  · exact h
  · split
    · rename_i v _ _ _
      split
      · exact setCurrent_reports_lawful (s := { s with dataOut := v }) h _ _
      · exact h
    · exact h

/-- A REPORT read moves the read position on, or removes the head record (R154). -/
theorem reportReadOp_reports_lawful : (reportReadOp s).reports.lawful := by
  unfold reportReadOp
  split
  · exact h
  · exact afterRead_lawful h

theorem irqPendWriteOp_reports_lawful (v : Byte) : (irqPendWriteOp v s).reports.lawful := by
  unfold irqPendWriteOp
  split <;> exact h

theorem irqEnWriteOp_reports_lawful (v : Byte) : (irqEnWriteOp v s).reports.lawful := by
  unfold irqEnWriteOp
  split <;> exact h

theorem rowDoneLowReadOp_reports_lawful : (rowDoneLowReadOp s).reports.lawful := by
  unfold rowDoneLowReadOp
  split <;> exact h

theorem stickyWriteOp_reports_lawful (v : Byte) : (stickyWriteOp v s).reports.lawful := by
  unfold stickyWriteOp
  split <;> exact h

theorem writeRegister_reports_lawful (offset : BitVec 4) (v : Byte) : (writeRegister offset v s).reports.lawful := by
  unfold writeRegister
  split
  · exact writeCmd_reports_lawful h v
  · exact paramWriteOp_reports_lawful h v
  · exact dataWriteOp_reports_lawful h v
  · exact irqPendWriteOp_reports_lawful h v
  · exact irqEnWriteOp_reports_lawful h v
  · exact stickyWriteOp_reports_lawful h v
  · exact h

theorem resetReleasedOp_reports_lawful : (resetReleasedOp s).reports.lawful := by
  unfold resetReleasedOp
  split
  · exact empty_reports_lawful
  · exact h

theorem hotChangeOp_reports_lawful (b : Bool) : (hotChangeOp b s).reports.lawful := by
  unfold hotChangeOp
  dsimp only
  split
  · exact h
  · split
    · exact h
    · split
      · exact h
      · exact releaseHold_reports_lawful (s := State.latchInput _) h

theorem paperChangeOp_reports_lawful (b : Bool) : (paperChangeOp b s).reports.lawful := by
  unfold paperChangeOp
  dsimp only
  split
  · exact h
  · split <;> exact h

/-! ### Every row and every step -/

theorem exec_reports_lawful {i : Instr} {t : State} (hexec : exec i s = .next t) : t.reports.lawful := by
  have next : ∀ {u : State}, (Host.Outcome.next u : Host.Outcome State Fault Refusal) = .next t → u.reports.lawful →
      t.reports.lawful := fun he hu => Host.Outcome.next.inj he ▸ hu
  have guarded : ∀ {c : Bool} {u : State}, (if c = true then (.next u : Host.Outcome State Fault Refusal)
      else .fault .addressOutsideMemory) = .next t → u.reports.lawful → t.reports.lawful := fun {c u} he hu => by
    cases c with
    | false => cases he
    | true => exact next he hu
  have hp := perform_reports_lawful h
  cases i with
  | softReset | setHead | setBands | defineGlyph | restoreGlyph | openJob | place | withdraw | commit | closeJob | abortJob
  | queryJob | loadSegment | stopUpload | proof => exact next hexec (writeCmd_reports_lawful h _)
  | unknownCommand code => exact next hexec (writeCmd_reports_lawful h code)
  | cmdWriteRefused code => exact next hexec (writeCmd_reports_lawful h code)
  | paramWrite v => exact next hexec (paramWriteOp_reports_lawful h v)
  | answerRead => exact next hexec (answerReadOp_reports_lawful h)
  | dataWrite v => exact next hexec (dataWriteOp_reports_lawful h v)
  | dataRead => exact next hexec (dataReadOp_reports_lawful h)
  | reportRead => exact next hexec (reportReadOp_reports_lawful h)
  | irqPendWrite v => exact next hexec (irqPendWriteOp_reports_lawful h v)
  | irqEnWrite v => exact next hexec (irqEnWriteOp_reports_lawful h v)
  | rowDoneLowRead => exact next hexec (rowDoneLowReadOp_reports_lawful h)
  | stickyWrite v => exact next hexec (stickyWriteOp_reports_lawful h v)
  | registerWriteDiscarded offset v => exact next hexec (writeRegister_reports_lawful h offset v)
  | resetAsserted => exact next hexec empty_reports_lawful
  | resetReleased => exact next hexec (resetReleasedOp_reports_lawful h)
  | lineStep => exact next hexec (lineStepOp_reports_lawful h)
  | hotChange b => exact next hexec (hotChangeOp_reports_lawful h b)
  | paperChange b => exact next hexec (paperChangeOp_reports_lawful h b)
  | shiftEnd => exact next hexec (endShift_reports_lawful h)
  | strobePulseEnd => exact next hexec (endPulse_reports_lawful h)
  | hotHoldExpire => exact next hexec (expireHold_reports_lawful h)
  | powerOnClearComplete =>
    simp only [exec, execPowerOnClearComplete] at hexec
    split at hexec
    · exact guarded hexec (finishClear_reports_lawful hp)
    · exact next hexec h
  | lineFetchEnd =>
    simp only [exec, execLineFetchEnd] at hexec
    split at hexec
    · exact guarded hexec (endFetch_reports_lawful hp)
    · exact next hexec h
  | bandComplete =>
    simp only [exec, execBandComplete] at hexec
    split at hexec
    · exact guarded hexec (finishBand_reports_lawful (s := (perform s).restServed _ _) hp)
    · exact next hexec h
  | proofCopyComplete =>
    simp only [exec, execProofCopyComplete] at hexec
    split at hexec
    · exact guarded hexec (endProof_reports_lawful (s := (perform s).restServed _ _) hp)
    · exact next hexec h
  | uploadStore =>
    simp only [exec, execUploadStore] at hexec
    split at hexec
    · split at hexec
      · refine guarded hexec ?_
        split
        · exact hp
        · exact storeNow_reports_lawful hp _ _
      · exact next hexec h
    · exact next hexec h
  | uploadPrefetch =>
    simp only [exec, execUploadPrefetch] at hexec
    split at hexec
    · split at hexec
      · refine guarded hexec ?_
        split <;> exact hp
      · exact next hexec h
    · exact next hexec h

/-- One period of CLKIN: the timers, a grant and an access performed, and what they bring about (R128). -/
theorem period_reports_lawful : (regrant (due (perform (grant (timers s))))).reports.lawful := by
  have hgrant : (grant (timers s)).reports.lawful := by
    rw [grant_reports]
    exact timers_reports_lawful h
  exact regrant_due_reports_lawful (perform_reports_lawful hgrant)

theorem tick_reports_lawful {t : State} (htick : tick s = .next t) : t.reports.lawful := by
  simp only [tick] at htick
  split at htick
  · exact Host.Outcome.next.inj htick ▸ h
  split at htick
  · exact Host.Outcome.next.inj htick ▸ regrant_due_reports_lawful (takeReading_reports_lawful h)
  split at htick
  · exact Host.Outcome.next.inj htick ▸ period_reports_lawful h
  · cases htick

end

/-- Settles O52: the rows by `exec_reports_lawful`, the internal step by `tick_reports_lawful`; both come down to `post_lawful`,
`afterRead_lawful` and the empty queue of a reset. -/
theorem everyStepKeepsTheReportQueueLaw : Obligations.EveryStepKeepsTheReportQueueLaw := by
  intro s t h hstep
  unfold step at hstep
  split at hstep
  · exact tick_reports_lawful h hstep
  · rename_i rest _
    exact exec_reports_lawful (s := { s with pending := rest }) h hstep

end Sys2Proof.Machine
end

section
/-! REPORT reads, one by one and eight in a row (R154, R180). -/

namespace Sys2Proof.Machine

/-! ### The bytes of a field (R180) -/

theorem byteOf_toNat (x : Half) : byteOf x.toNat = x.setWidth 8 :=
  BitVec.eq_of_toNat_eq (by simp [byteOf])

theorem byteOf_toNat_div (x : Half) : byteOf (x.toNat / 256) = (x >>> 8).setWidth 8 :=
  BitVec.eq_of_toNat_eq (by simp [byteOf, Nat.shiftRight_eq_div_pow])

/-! ### One read (R154) -/

theorem reportReadOp_eq {s : State} (h : s.phase ≠ .held) :
    reportReadOp s = { s with dataOut := s.reports.byte, reports := s.reports.afterRead } :=
  if_neg h

section
variable {s : State} (h : s.phase ≠ .held) {r : Report} {rest : List Report} {k : Nat} (hq : s.reports = ⟨r :: rest, k⟩)
include h hq

/-- A read before the eighth byte moves the read position on. -/
theorem reportReadOp_going (hk : k < 7) :
    reportReadOp s = { s with dataOut := r.bytes.getD k 0x00, reports := ⟨r :: rest, k + 1⟩ } := by
  simp only [reportReadOp_eq h, hq, ReportQueue.byte, ReportQueue.afterRead, hk, if_true]

/-- The read of the eighth byte removes the head record. -/
theorem reportReadOp_eighth (hk : ¬ k < 7) :
    reportReadOp s = { s with dataOut := r.bytes.getD k 0x00, reports := ⟨rest, 0⟩ } := by
  simp only [reportReadOp_eq h, hq, ReportQueue.byte, ReportQueue.afterRead, hk, if_false]

end

/-- A read with the queue empty returns 00h and leaves the read position. -/
theorem reportReadOp_empty {s : State} (h : s.phase ≠ .held) (hq : s.reports.records = []) :
    reportReadOp s = { s with dataOut := 0x00 } := by
  simp only [reportReadOp_eq h, ReportQueue.byte, ReportQueue.afterRead, hq]

/-! ### The reads of a record (R154, R180) -/

theorem readReports_succ (n : Nat) (s : State) :
    readReports (n + 1) s =
      ((reportReadOp s).dataOut :: (readReports n (reportReadOp s)).1, (readReports n (reportReadOp s)).2) := rfl

/-- The reads from a position to the end of the head record return the bytes from there on and remove the record. -/
theorem readReports_toEnd (r : Report) (rest : List Report) (n : Nat) :
    ∀ (k : Nat) (s : State), s.phase ≠ .held → s.reports = ⟨r :: rest, k⟩ → k + n = 7 →
      readReports (n + 1) s = (r.bytes.drop k, { s with dataOut := r.bytes.getD 7 0x00, reports := ⟨rest, 0⟩ }) := by
  induction n with
  | zero =>
    rintro k s h hq rfl
    rw [readReports_succ, reportReadOp_eighth h hq (by omega)]
    rfl
  | succ n ih =>
    intro k s h hq hk
    have hlt : k < r.bytes.length := by
      rw [report_bytes_length]
      omega
    have hgoing := reportReadOp_going h hq (show k < 7 by omega)
    have hrest := ih (k + 1) (reportReadOp s) (by rwa [hgoing]) (by rw [hgoing]) (by omega)
    rw [readReports_succ, hrest, hgoing, List.drop_eq_getElem_cons hlt, List.getD_eq_getElem _ _ hlt]

/-- Settles O10: the eight reads by `readReports_toEnd`, one read by its three cases. -/
theorem reportReadsReturnTheHeadRecord : Obligations.ReportReadsReturnTheHeadRecord := by
  intro s h
  refine ⟨fun r rest hq => ?_, ?_⟩
  · rw [readReports_toEnd r rest 7 0 s h hq rfl, report_bytes]
    simp only [byteOf_toNat, byteOf_toNat_div]
    rfl
  · refine congrArg Host.Outcome.next ?_
    cases hr : s.reports.records with
    | nil => exact reportReadOp_empty h hr
    | cons r rest =>
      have hq : s.reports = ⟨r :: rest, s.reports.readPos⟩ := by rw [← hr]
      dsimp only
      split
      · exact reportReadOp_going h hq (by assumption)
      · exact reportReadOp_eighth h hq (by assumption)

end Sys2Proof.Machine
end

section
/-! The registers of the window: the writes that clear and set flags, the writes that are discarded, and what every offset but 0
reads (R156, R159, R161, R163, R169, R172 to R174, R177, R178). -/

namespace Sys2Proof.Machine

/-! ### A byte of flags (R177) -/

/-- Flags added up with the weights of their places are the bits of the byte. -/
theorem byteOf_flags : ∀ a b c d e f g h : Bool,
    byteOf (bitAt a 0 + bitAt b 1 + bitAt c 2 + bitAt d 3 + bitAt e 4 + bitAt f 5 + bitAt g 6 + bitAt h 7) =
      BitVec.ofBoolListLE [a, b, c, d, e, f, g, h] := by decide

/-- Past the flags named, a byte's bits are 0. -/
theorem getD_append_unused (flags : List Bool) (n i : Nat) :
    (flags ++ List.replicate n false).getD i false = flags.getD i false := by
  rcases Nat.lt_or_ge i flags.length with h | h
  · exact List.getD_append _ _ _ _ h
  · rw [List.getD_append_right _ _ _ _ h, List.getD_eq_getElem?_getD,
      List.getElem?_getD_replicate_default_eq, List.getD_eq_default _ _ h]

/-- Offsets 7 and 8, bit by bit. -/
theorem sources_byte_getLsbD (x : Sources) (i : Nat) :
    x.byte.getLsbD i = [x.report, x.uploadNext, x.input, x.done].getD i false := by
  have hbyte : x.byte = BitVec.ofBoolListLE ([x.report, x.uploadNext, x.input, x.done] ++ List.replicate 4 false) :=
    byteOf_flags x.report x.uploadNext x.input x.done false false false false
  rw [hbyte, BitVec.getLsbD_ofBoolListLE, getD_append_unused]

/-- Offset B, bit by bit. -/
theorem upload_byte_getLsbD (u : Upload) (i : Nat) :
    u.byte.getLsbD i = [u.cur.isSome, slotIsOut u.cur, u.nxt.isSome, slotIsOut u.nxt].getD i false := by
  have hbyte : u.byte = BitVec.ofBoolListLE
      ([u.cur.isSome, slotIsOut u.cur, u.nxt.isSome, slotIsOut u.nxt] ++ List.replicate 4 false) :=
    byteOf_flags u.cur.isSome (slotIsOut u.cur) u.nxt.isSome (slotIsOut u.nxt) false false false false
  rw [hbyte, BitVec.getLsbD_ofBoolListLE, getD_append_unused]

/-- Offset F, bit by bit. -/
theorem sticky_byte_getLsbD (f : Sticky) (i : Nat) :
    f.byte.getLsbD i = [f.cmdRefused, f.paramSpill, f.dataSpill, f.dataShort, f.reportsLost].getD i false := by
  have hbyte : f.byte = BitVec.ofBoolListLE
      ([f.cmdRefused, f.paramSpill, f.dataSpill, f.dataShort, f.reportsLost] ++ List.replicate 3 false) :=
    byteOf_flags f.cmdRefused f.paramSpill f.dataSpill f.dataShort f.reportsLost false false false
  rw [hbyte, BitVec.getLsbD_ofBoolListLE, getD_append_unused]

/-! ### What the flags say (R146, R156, R177) -/

theorem sources_report_iff (s : State) : s.sources.report = true ↔ s.reports.records ≠ [] := by
  simp [State.sources]

theorem nextWanted_iff (u : Upload) : u.nextWanted = true ↔ u.cur.isSome = true ∧ u.nxt = none := by
  simp [Upload.nextWanted]

theorem slotIsOut_iff (slot : Option Segment) : slotIsOut slot = true ↔ ∃ g ∈ slot, g.direction = .dirOut := by
  cases slot <;> simp [slotIsOut]

/-- The code of a position takes two bits. -/
theorem positionCode_le (slot : Option Job) : positionCode slot ≤ 3 := by
  cases slot with
  | none => exact Nat.zero_le 3
  | some j => cases hj : j.state <;> simp [positionCode, hj, JobState.code]

/-- Offset A: the front position's code below the back position's. -/
theorem jobs_byte_toNat (t : JobTable) : t.byte.toNat = positionCode t.front + 4 * positionCode t.back := by
  have hfront := positionCode_le t.front
  have hback := positionCode_le t.back
  simp only [JobTable.byte, byteOf, BitVec.toNat_ofNat]
  omega

/-! ### The writes (R156, R159, R161, R172) -/

/-- A flag written with 1 clears, and written with 0 stays. -/
theorem and_not_eq_ite (flag written : Bool) : (flag && !written) = if written then false else flag := by
  cases written <;> simp

theorem irqPendWriteOp_eq {s : State} (h : s.phase ≠ .held) (v : Byte) :
    irqPendWriteOp v s = { s with irq := { s.irq with
      input := if v.getLsbD 2 then false else s.irq.input
      done := if v.getLsbD 3 then false else s.irq.done } } := by
  rw [irqPendWriteOp, if_neg h, and_not_eq_ite, and_not_eq_ite]

theorem clearedBy_eq (f : Sticky) (v : Byte) :
    f.clearedBy v =
      { cmdRefused := if v.getLsbD 0 then false else f.cmdRefused
        paramSpill := if v.getLsbD 1 then false else f.paramSpill
        dataSpill := if v.getLsbD 2 then false else f.dataSpill
        dataShort := if v.getLsbD 3 then false else f.dataShort
        reportsLost := if v.getLsbD 4 then false else f.reportsLost } := by
  simp only [Sticky.clearedBy, and_not_eq_ite]

theorem stickyWriteOp_eq {s : State} (h : s.phase ≠ .held) (v : Byte) :
    stickyWriteOp v s = { s with port := { s.port with sticky := s.port.sticky.clearedBy v } } :=
  if_neg h

theorem writeRegister_discarded {offset : BitVec 4} (h : offset ∈ discardedOffsets) (v : Byte) (s : State) :
    writeRegister offset v s = s := by
  simp only [discardedOffsets, List.mem_cons, List.not_mem_nil, or_false] at h
  rcases h with rfl | rfl | rfl | rfl | rfl | rfl | rfl | rfl | rfl | rfl <;> rfl

/-! ### The reads that are rows (R143, R154, R169, R173) -/

@[simp] theorem setCurrent_dataOut (g : Segment) (fifo : List Byte) (s : State) :
    (setCurrent g fifo s).dataOut = s.dataOut := by
  obtain ⟨up, rep, f, h⟩ := setCurrent_frame g fifo s
  rw [h]

section
variable {s : State} (h : s.phase ≠ .held)
include h

theorem answerReadOp_dataOut : (answerReadOp s).dataOut = s.port.answerByte := by
  rw [answerReadOp, if_neg h]
  split
  · rfl
  · exact (List.getD_eq_default _ _ (by omega)).symm

theorem dataReadOp_dataOut : (dataReadOp s).dataOut = s.upload.dataByte := by
  cases hg : s.upload.cur with
  | none =>
    rw [dataReadOp_short h (.inr fun g hm => by rw [hg] at hm; cases hm)]
    simp [shortData, Upload.dataByte, hg]
  | some g =>
    cases hd : g.direction with
    | dirIn =>
      rw [dataReadOp_short h (.inr fun k hm => by rw [hg] at hm; cases hm; exact hd)]
      simp [shortData, Upload.dataByte, hg, hd]
    | dirOut =>
      cases hf : s.upload.fifo with
      | nil =>
        rw [dataReadOp_short h (.inl hf)]
        simp [shortData, Upload.dataByte, hg, hf]
      | cons v rest =>
        rw [dataReadOp_taken h hg hd hf]
        simp [takeDataByte, Upload.dataByte, hg, hd, hf]

/-- A read that is a row returns what the register shows (R161). -/
theorem readRow_dataOut {t : State} :
    (exec .answerRead s = .next t → t.dataOut = s.readRegister 0x4) ∧
      (exec .dataRead s = .next t → t.dataOut = s.readRegister 0x5) ∧
      (exec .reportRead s = .next t → t.dataOut = s.readRegister 0x6) ∧
      (exec .rowDoneLowRead s = .next t → t.dataOut = s.readRegister 0xC) := by
  have reads : ∀ {u : State} {b c : Byte}, (Host.Outcome.next u : Host.Outcome State Fault Refusal) = .next t →
      u.dataOut = b → c = b → t.dataOut = c := fun he hu hb => Host.Outcome.next.inj he ▸ hu.trans hb.symm
  refine ⟨fun he => reads he (answerReadOp_dataOut h) (if_neg h), fun he => reads he (dataReadOp_dataOut h) (if_neg h),
    fun he => reads he (b := s.reports.byte) ?_ (if_neg h), fun he => reads he (b := byteOf s.jobs.frontDone) ?_ (if_neg h)⟩
  · rw [reportReadOp_eq h]
  · rw [rowDoneLowReadOp, if_neg h]

/-! ### What the offsets read (R161) -/

theorem readRegister_pending_getLsbD (i : Nat) : (s.readRegister 0x7).getLsbD i =
    [s.sources.report, s.sources.uploadNext, s.irq.input, s.irq.done].getD i false := by
  rw [show s.readRegister 0x7 = s.sources.byte from if_neg h, sources_byte_getLsbD]
  rfl

theorem readRegister_enable_getLsbD (i : Nat) : (s.readRegister 0x8).getLsbD i =
    [s.irq.enable.report, s.irq.enable.uploadNext, s.irq.enable.input, s.irq.enable.done].getD i false := by
  rw [show s.readRegister 0x8 = s.irq.enable.byte from if_neg h, sources_byte_getLsbD]

theorem readRegister_upload_getLsbD (i : Nat) : (s.readRegister 0xB).getLsbD i =
    [s.upload.cur.isSome, slotIsOut s.upload.cur, s.upload.nxt.isSome, slotIsOut s.upload.nxt].getD i false := by
  rw [show s.readRegister 0xB = s.upload.byte from if_neg h, upload_byte_getLsbD]

theorem readRegister_sticky_getLsbD (i : Nat) : (s.readRegister 0xF).getLsbD i =
    [s.port.sticky.cmdRefused, s.port.sticky.paramSpill, s.port.sticky.dataSpill, s.port.sticky.dataShort,
      s.port.sticky.reportsLost].getD i false := by
  rw [show s.readRegister 0xF = s.port.sticky.byte from if_neg h, sticky_byte_getLsbD]

theorem readRegister_jobState :
    (s.readRegister 0xA).toNat = positionCode s.jobs.front + 4 * positionCode s.jobs.back := by
  rw [show s.readRegister 0xA = s.jobs.byte from if_neg h, jobs_byte_toNat]

theorem readRegister_paramCount : (s.readRegister 0xE).toNat = s.port.params.length % 256 := by
  rw [show s.readRegister 0xE = byteOf s.port.params.length from if_neg h, byteOf, BitVec.toNat_ofNat]

end

/-- Settles O7: the writes by what each operation does, the bytes of flags bit by bit, the codes as the offsets show them. -/
theorem flagWritesAndDiscardedWrites : Obligations.FlagWritesAndDiscardedWrites := by
  refine ⟨fun s v h => ⟨congrArg _ (irqPendWriteOp_eq h v), congrArg _ (if_neg h), ?_,
    fun _ ho => congrArg _ (writeRegister_discarded ho v s)⟩, fun s h => ?_⟩
  · rw [← clearedBy_eq]
    exact congrArg _ (stickyWriteOp_eq h v)
  · intro reads place
    have hplace : ∀ slot, positionCode slot = place slot := by
      intro slot
      cases slot with
      | none => rfl
      | some j => cases hj : j.state <;> simp [place, positionCode, hj, JobState.code]
    have hpending := readRegister_pending_getLsbD h
    have henable := readRegister_enable_getLsbD h
    have hupload := readRegister_upload_getLsbD h
    have hsticky := readRegister_sticky_getLsbD h
    refine ⟨if_neg h, if_neg h, if_neg h, ?_, ?_, hpending 2, hpending 3, henable 0, henable 1, henable 2, henable 3, if_neg h,
      ?_, hupload 0, ?_, hupload 2, ?_, fun i hi => ⟨?_, ?_, ?_⟩, if_neg h, readRegister_paramCount h, hsticky 0, hsticky 1,
      hsticky 2, hsticky 3, hsticky 4, fun i hi => ?_, fun t => readRow_dataOut h⟩
    · exact hpending 0 ▸ sources_report_iff s
    · exact hpending 1 ▸ nextWanted_iff s.upload
    · rw [← hplace, ← hplace]
      exact readRegister_jobState h
    · exact hupload 1 ▸ slotIsOut_iff s.upload.cur
    · exact hupload 3 ▸ slotIsOut_iff s.upload.nxt
    · exact (hpending i).trans (List.getD_eq_default _ _ hi)
    · exact (henable i).trans (List.getD_eq_default _ _ hi)
    · exact (hupload i).trans (List.getD_eq_default _ _ hi)
    · exact (hsticky i).trans (List.getD_eq_default _ _ hi)

end Sys2Proof.Machine
end

section
/-! The command port: the codes it refuses, the code that names no command, a command refused by its block, SOFT_RESET, and the
buffers of PARAM and ANSWER (R163 to R169, R175, R176). -/

namespace Sys2Proof.Machine

/-! ### A CMD write refused by the port (R165) -/

/-- Before READY the port takes no code, and while a command is busy none but that of SOFT_RESET. -/
theorem takes_eq_false {s : State} {code : Byte} (h : (∃ a, s.phase = .clearing a) ∨ (s.phase = .ready ∧ s.port.busy = true))
    (hcode : code = Config.codeSoftReset → s.phase ≠ .ready) : takes code s = false := by
  rcases h with ⟨a, hphase⟩ | ⟨hphase, hbusy⟩
  · simp [takes, State.isReady, hphase]
  · have hother : decide (code = Config.codeSoftReset) = false := decide_eq_false fun he => hcode he hphase
    rw [takes, hbusy, hother]
    exact Bool.and_false _

theorem writeCmd_refused {s : State} {code : Byte}
    (h : (∃ a, s.phase = .clearing a) ∨ (s.phase = .ready ∧ s.port.busy = true))
    (hcode : code = Config.codeSoftReset → s.phase ≠ .ready) : writeCmd code s = refuseWrite s := by
  have hheld : s.phase ≠ .held := by
    rcases h with ⟨a, hphase⟩ | ⟨hphase, -⟩ <;> simp [hphase]
  exact offer_refused hheld (takes_eq_false h hcode) _

/-- SOFT_RESET's row alone has SOFT_RESET's code (R178). -/
theorem commandRow_softReset : ∀ row ∈ commandRows, row.2 = Config.codeSoftReset → row.1 = .softReset := by decide

/-- Settles O4: the rows are CMD writes (`exec_commandRow`), and the port refuses each (`writeCmd_refused`). -/
theorem busyOrUnreadyPortRefuses : Obligations.BusyOrUnreadyPortRefuses := by
  intro s h
  have refused : ∀ code : Byte, (code = 0xA5 → s.phase ≠ .ready) →
      (Host.Outcome.next (writeCmd code s) : Result) = .next (refuseWrite s) :=
    fun code hcode => congrArg _ (writeCmd_refused h hcode)
  refine ⟨fun row hrow hreset => ?_, fun code hcode => ⟨refused code hcode, refused code hcode⟩⟩
  exact (exec_commandRow hrow s).trans (refused row.2 fun he => hreset (commandRow_softReset row hrow he))

/-! ### A code that names no command (R167) -/

/-- Settles O5: the body that the code names is the refusal with UNKNOWN_COMMAND (`bodyOf_unknown`). -/
theorem unknownCodeCompletesAtOnce : Obligations.UnknownCodeCompletesAtOnce := by
  intro code s hcode ha
  have hwrite : writeCmd code s = s.answered code .unknownCommand [] := by
    rw [writeCmd, bodyOf_unknown code hcode, offer_taken ha]
    exact completeWith_refusal code .unknownCommand s
  exact congrArg _ hwrite

/-! ### A command refused by its block (R168) -/

/-- The command was not refused: it has completed with OK, or it goes on. -/
def State.OkOrBusy (s : State) : Prop := s.port.result = .ok ∨ s.port.busy = true

/-- A command that checks its parameters is a refusal, unless the checks pass and its act completes with OK or goes on. -/
theorem checked_refusal_or {α : Type} {s : State} (c : Except ResultCode α) {act : α → State × Option Reply}
    (h : ∀ v, (completeWith (act v)).OkOrBusy) :
    (∃ r, checked c act s = refusal r s) ∨ (completeWith (checked c act s)).OkOrBusy := by
  cases c with
  | error r => exact .inl ⟨r, rfl⟩
  | ok v => exact .inr (h v)

/-- Every command, taken, is a refusal, completes with OK, or goes on: only PROOF does. -/
theorem bodyOf_refusal_or {s : State} (hbusy : s.port.busy = true) (code : Byte) (ps : List Byte) :
    (∃ r, bodyOf code ps s = refusal r s) ∨ (completeWith (bodyOf code ps s)).OkOrBusy := by
  have accepted : ∀ (answer : List Byte) (u : State), (completeWith (accept answer u)).OkOrBusy := fun _ _ => .inl rfl
  generalize hb : bodyOf code = body
  unfold bodyOf at hb
  split at hb <;> subst hb
  -- The last three arms are PROOF, SOFT_RESET and the code of no command; every other command accepts what its checks pass.
  case h_14 => exact checked_refusal_or _ fun _ => .inr hbusy
  case h_15 => exact .inr (accepted _ _)
  case h_16 => exact .inl ⟨_, rfl⟩
  all_goals exact checked_refusal_or _ fun _ => accepted _ _

/-- A command taken that completes with another result than OK has changed the command port and DONE alone. -/
theorem writeCmd_eq_answered {s : State} (ha : s.admits) {code : Byte} (hresult : (writeCmd code s).port.result ≠ .ok)
    (hbusy : (writeCmd code s).port.busy = false) :
    writeCmd code s = s.answered code (writeCmd code s).port.result [] := by
  have htaken : writeCmd code s = completeWith (bodyOf code s.port.params (take code s)) := offer_taken ha code _
  rcases bodyOf_refusal_or (s := take code s) rfl code s.port.params with ⟨r, hr⟩ | hok | hgoes
  · rw [htaken, hr, completeWith_refusal]
    rfl
  · exact absurd (htaken ▸ hok) hresult
  · rw [← htaken, hbusy] at hgoes
    cases hgoes

/-- Settles O3: a command's row is its CMD write (`exec_commandRow`), and a refusal answers and does nothing else
(`writeCmd_eq_answered`). -/
theorem refusedCommandChangesOnlyThePort : Obligations.RefusedCommandChangesOnlyThePort := by
  intro row hrow s t ha hexec hresult hbusy
  obtain rfl := Host.Outcome.next.inj ((exec_commandRow hrow s).symm.trans hexec)
  exact writeCmd_eq_answered ha hresult hbusy

/-! ### SOFT_RESET (R134, R175, R176) -/

/-- SOFT_RESET lets the access in progress be performed: memory is as the access leaves it, and nothing else changes. -/
theorem landInProgress_eq (s : State) : s.landInProgress = { s with mem := (perform s).mem } := by
  rw [perform_mem]
  unfold State.landInProgress State.land
  cases s.arbiter.inProgress with
  | none => rfl
  | some a =>
    dsimp only
    cases a.write <;> rfl

theorem exec_softReset {s : State} (h : s.phase = .ready) :
    exec .softReset s = .next (complete ⟨.ok, []⟩ (softResetAct (take Config.codeSoftReset s))) :=
  congrArg _ (offer_softReset h _)

/-- Settles O18: the blocks are those of `softResetAct`, and memory is that of the access performed (`perform_mem`). -/
theorem softResetEmptiesTheBlocks : Obligations.SoftResetEmptiesTheBlocks := by
  intro s h
  rw [exec_softReset h, softResetAct, landInProgress_eq, perform_mem, ← h]
  cases ha : s.arbiter.inProgress <;> simp only [take_arbiter, ha] <;> rfl

/-! ### The buffers of PARAM and ANSWER (R163, R169) -/

/-- Settles O6: PARAM by the room in the buffer, ANSWER by whether the position holds a byte. -/
theorem paramAndAnswerBuffers : Obligations.ParamAndAnswerBuffers := by
  intro s h
  refine ⟨fun v => congrArg Host.Outcome.next (if_neg h), congrArg Host.Outcome.next ((if_neg h).trans ?_)⟩
  rcases Nat.lt_or_ge s.port.answerPos s.port.answer.length with hin | hout
  · rw [if_pos hin, List.getElem?_eq_getElem hin]
    simp [Port.answerByte, hin]
  · rw [if_neg (Nat.not_lt.mpr hout), List.getElem?_eq_none hout]

end Sys2Proof.Machine
end

section
/-! The queue of waiting rows: a step carries out the row at its front, and no row reads its way into it (R164, log entry 16). -/

namespace Sys2Proof.Machine

/-- Settles O1: with the queue not empty a step is the front row, by its definition. -/
theorem stepRunsTheFrontRow : Obligations.StepRunsTheFrontRow := by
  intro c rest s h
  simp only [step, h]

/-! ### The access performed, and the ends of the operations (R74, R96, R108, R128, R133) -/

@[simp] theorem perform_pending (s : State) : (perform s).pending = s.pending := by
  rcases perform_moved s with ⟨-, h⟩ | ⟨a, m, v, -, h, -⟩
  · rw [h]
  · generalize perform s = t at h
    cases h <;> rfl

@[simp] theorem finishClear_pending (s : State) : (finishClear s).pending = s.pending := by
  unfold finishClear
  split <;> rfl

@[simp] theorem finishBand_pending (s : State) : (finishBand s).pending = s.pending := by
  unfold finishBand
  split
  · exact (bandDone_labelOnly _ _).pending
  · rfl

@[simp] theorem endProof_pending (s : State) : (endProof s).pending = s.pending := by
  unfold endProof
  split
  · exact (look_labelOnly _).pending
  · rfl

/-! ### A CMD write (R164 to R168, R175) -/

theorem commanded_pending {ps : List Byte} {s t : State} (h : Commanded ps s t) : t.pending = s.pending := by
  cases h with
  | openJob p hc => exact (openJobAct_labelOnly hc).pending
  | commit x _ => exact (commitAct_labelOnly x.1 x.2 s).pending
  | closeJob j _ => exact (look_withJobs_labelOnly _ s).pending
  | abortJob j _ => exact (abortJobAct_labelOnly j s).pending
  | loadSegment g =>
    obtain ⟨up, h, -⟩ := loadSegmentAct_frame g s
    rw [h]
    rfl
  | _ => rfl

theorem writeCmd_pending (code : Byte) (s : State) : (writeCmd code s).pending = s.pending := by
  have ht := writeCmd_written code s
  generalize writeCmd code s = t at ht
  cases ht with
  | held | refused => rfl
  | softReset _ =>
    rw [softResetAct, landInProgress_eq]
    rfl
  | taken _ _ h => exact (commanded_pending h).trans (take_pending s code)

/-! ### The other accesses of the window, and the input pins (R132, R140, R143, R154 to R173) -/

theorem setCurrent_pending (g : Segment) (fifo : List Byte) (s : State) : (setCurrent g fifo s).pending = s.pending := by
  obtain ⟨up, rep, f, h⟩ := setCurrent_frame g fifo s
  rw [h]

theorem paramWriteOp_pending (v : Byte) (s : State) : (paramWriteOp v s).pending = s.pending := by
  unfold paramWriteOp
  split
  · rfl
  · split <;> rfl

theorem answerReadOp_pending (s : State) : (answerReadOp s).pending = s.pending := by
  unfold answerReadOp
  split
  · rfl
  · split <;> rfl

theorem dataWriteOp_pending (v : Byte) (s : State) : (dataWriteOp v s).pending = s.pending := by
  unfold dataWriteOp
  split
  · rfl
  · split <;> rfl

theorem dataReadOp_pending (s : State) : (dataReadOp s).pending = s.pending := by
  unfold dataReadOp
  split
  · rfl
  · split
    · split
      · exact setCurrent_pending _ _ _
      · rfl
    · rfl

theorem reportReadOp_pending (s : State) : (reportReadOp s).pending = s.pending := by
  unfold reportReadOp
  split <;> rfl

theorem irqPendWriteOp_pending (v : Byte) (s : State) : (irqPendWriteOp v s).pending = s.pending := by
  unfold irqPendWriteOp
  split <;> rfl

theorem irqEnWriteOp_pending (v : Byte) (s : State) : (irqEnWriteOp v s).pending = s.pending := by
  unfold irqEnWriteOp
  split <;> rfl

theorem rowDoneLowReadOp_pending (s : State) : (rowDoneLowReadOp s).pending = s.pending := by
  unfold rowDoneLowReadOp
  split <;> rfl

theorem stickyWriteOp_pending (v : Byte) (s : State) : (stickyWriteOp v s).pending = s.pending := by
  unfold stickyWriteOp
  split <;> rfl

theorem writeRegister_pending (offset : BitVec 4) (v : Byte) (s : State) :
    (writeRegister offset v s).pending = s.pending := by
  unfold writeRegister
  split
  · exact writeCmd_pending v s
  · exact paramWriteOp_pending v s
  · exact dataWriteOp_pending v s
  · exact irqPendWriteOp_pending v s
  · exact irqEnWriteOp_pending v s
  · exact stickyWriteOp_pending v s
  · rfl

theorem resetReleasedOp_pending (s : State) : (resetReleasedOp s).pending = s.pending := by
  unfold resetReleasedOp
  split <;> rfl

theorem hotChangeOp_pending (b : Bool) (s : State) : (hotChangeOp b s).pending = s.pending := by
  unfold hotChangeOp
  dsimp only
  split
  · rfl
  · split
    · rfl
    · split
      · rfl
      · exact (releaseHold_labelOnly _).pending

theorem paperChangeOp_pending (b : Bool) (s : State) : (paperChangeOp b s).pending = s.pending := by
  unfold paperChangeOp
  dsimp only
  split
  · rfl
  · split <;> rfl

theorem storeNow_pending (g : Segment) (v : Byte) (s : State) : (storeNow g v s).pending = s.pending :=
  setCurrent_pending _ _ _

/-! ### Every row -/

/-- Settles O2: each row by its operation, those over the label by `LabelOnly`. -/
theorem rowsLeaveTheQueue : Obligations.RowsLeaveTheQueue := by
  intro c s t hexec
  have next : ∀ {u : State}, (Host.Outcome.next u : Host.Outcome State Fault Refusal) = .next t → u.pending = s.pending →
      t.pending = s.pending := fun he hu => Host.Outcome.next.inj he ▸ hu
  have guarded : ∀ {b : Bool} {u : State}, (if b = true then (.next u : Host.Outcome State Fault Refusal)
      else .fault .addressOutsideMemory) = .next t → u.pending = s.pending → t.pending = s.pending := fun {b u} he hu => by
    cases b with
    | false => cases he
    | true => exact next he hu
  cases c with
  | softReset | setHead | setBands | defineGlyph | restoreGlyph | openJob | place | withdraw | commit | closeJob | abortJob
  | queryJob | loadSegment | stopUpload | proof => exact next hexec (writeCmd_pending _ s)
  | unknownCommand code => exact next hexec (writeCmd_pending code s)
  | cmdWriteRefused code => exact next hexec (writeCmd_pending code s)
  | paramWrite v => exact next hexec (paramWriteOp_pending v s)
  | answerRead => exact next hexec (answerReadOp_pending s)
  | dataWrite v => exact next hexec (dataWriteOp_pending v s)
  | dataRead => exact next hexec (dataReadOp_pending s)
  | reportRead => exact next hexec (reportReadOp_pending s)
  | irqPendWrite v => exact next hexec (irqPendWriteOp_pending v s)
  | irqEnWrite v => exact next hexec (irqEnWriteOp_pending v s)
  | rowDoneLowRead => exact next hexec (rowDoneLowReadOp_pending s)
  | stickyWrite v => exact next hexec (stickyWriteOp_pending v s)
  | registerWriteDiscarded offset v => exact next hexec (writeRegister_pending offset v s)
  | resetAsserted => exact next hexec rfl
  | resetReleased => exact next hexec (resetReleasedOp_pending s)
  | lineStep => exact next hexec (lineStepOp_labelOnly s).pending
  | hotChange b => exact next hexec (hotChangeOp_pending b s)
  | paperChange b => exact next hexec (paperChangeOp_pending b s)
  | shiftEnd => exact next hexec (endShift_labelOnly s).pending
  | strobePulseEnd => exact next hexec (endPulse_labelOnly s).pending
  | hotHoldExpire => exact next hexec (expireHold_labelOnly s).pending
  | powerOnClearComplete =>
    simp only [exec, execPowerOnClearComplete] at hexec
    split at hexec
    · exact guarded hexec (by simp)
    · exact next hexec rfl
  | lineFetchEnd =>
    simp only [exec, execLineFetchEnd] at hexec
    split at hexec
    · exact guarded hexec ((endFetch_labelOnly _).pending.trans (perform_pending s))
    · exact next hexec rfl
  | bandComplete =>
    simp only [exec, execBandComplete] at hexec
    split at hexec
    · exact guarded hexec (by simp)
    · exact next hexec rfl
  | proofCopyComplete =>
    simp only [exec, execProofCopyComplete] at hexec
    split at hexec
    · exact guarded hexec (by simp)
    · exact next hexec rfl
  | uploadStore =>
    simp only [exec, execUploadStore] at hexec
    split at hexec
    · split at hexec
      · refine guarded hexec ?_
        split
        · exact perform_pending s
        · exact (storeNow_pending _ _ _).trans (perform_pending s)
      · exact next hexec rfl
    · exact next hexec rfl
  | uploadPrefetch =>
    simp only [exec, execUploadPrefetch] at hexec
    split at hexec
    · split at hexec
      · refine guarded hexec ?_
        split <;> exact perform_pending s
      · exact next hexec rfl
    · exact next hexec rfl

end Sys2Proof.Machine
end

section
/-! The pins and the line step: a change of HOT or PAPER latched (R104, R119, R157), and a step that is ignored or latched
(R105, R115, R116). -/

namespace Sys2Proof.Machine

/-! ### The input levels (R119, R157) -/

section
variable {s : State} (h : s.phase ≠ .held)
include h

/-- PAPER at a level other than the copy's latches INPUT (R157). -/
theorem paperChangeOp_latched {level : Bool} (hl : level ≠ s.irq.seenPaper) :
    paperChangeOp level s = ({ s with paper := level } : State).latchInput := by
  simp only [paperChangeOp, h, hl, if_false]

/-- HOT at a level other than the copy's latches INPUT, and its release resumes a held pass (R119, R157). -/
theorem hotChangeOp_latched {level : Bool} (hl : level ≠ s.irq.seenHot) :
    hotChangeOp level s =
      let t := ({ s with hot := level } : State).latchInput
      if level then t else releaseHold t := by
  simp only [hotChangeOp, h, hl, if_false]

end

theorem releaseHold_holding {s : State} {p : Pass} {n : Nat} {line : Line} (hm : s.head.mode = .inFlight (.hold p n) line) :
    releaseHold s = startPulse p line s := by
  simp only [releaseHold, hm]

theorem releaseHold_other {s : State} (hm : ∀ p n line, s.head.mode ≠ .inFlight (.hold p n) line) : releaseHold s = s := by
  unfold releaseHold
  split
  · rename_i p n line hmode
    exact absurd hmode (hm p n line)
  · rfl

/-- Settles O36: a level against the copy is latched, and a release resumes a held pass and no other. -/
theorem inputChangesLatchInput : Obligations.InputChangesLatchInput := by
  intro s h
  refine ⟨fun hcopy level hne => congrArg Host.Outcome.next (paperChangeOp_latched h (hcopy ▸ hne)), ?_⟩
  intro hcopy level hne changed
  have hlatched := hotChangeOp_latched h (hcopy ▸ hne)
  refine ⟨fun hgoes => congrArg Host.Outcome.next (hlatched.trans ?_),
    fun p n line hreleased hm => congrArg Host.Outcome.next (hlatched.trans ?_)⟩
  · rcases hgoes with rfl | hm
    · rfl
    · cases level with
      | true => rfl
      | false => exact releaseHold_other (s := changed) hm
  · subst hreleased
    exact releaseHold_holding (s := changed) hm

/-! ### The line step (R105, R115, R116) -/

/-- Until READY a line step is ignored (R105). -/
theorem lineStepOp_unready {s : State} (h : s.phase ≠ .ready) : lineStepOp s = s := if_neg h

/-- In IDLE a line step is ignored (R105). -/
theorem lineStepOp_idle {s : State} (hm : s.head.mode = .idle) : lineStepOp s = s := by
  simp only [lineStepOp, hm, ite_self]

/-- A line step while a line is in flight is ignored at an ending line, and otherwise latched, or lost (R115, R116). -/
theorem lineStepOp_inFlight {s : State} (h : s.phase = .ready) {phase : LinePhase} {line : Line}
    (hm : s.head.mode = .inFlight phase line) :
    lineStepOp s =
      if line.ending then s
      else if s.head.latch then loseStep phase line s
      else { s with head := { s.head with latch := true } } := by
  simp only [lineStepOp, h, hm, if_true]

/-- Settles O37: the step by the phase of the part and the state of the head channel. -/
theorem lineStepIgnoredOrLatched : Obligations.LineStepIgnoredOrLatched := by
  refine fun s => ⟨fun h => congrArg Host.Outcome.next (h.elim lineStepOp_unready lineStepOp_idle), fun phase line h hm => ?_⟩
  refine ⟨fun hend => congrArg Host.Outcome.next ?_, fun hend hlatch => congrArg Host.Outcome.next ?_⟩
  · rw [lineStepOp_inFlight h hm, if_pos hend]
  · rw [lineStepOp_inFlight h hm, hend, hlatch]
    rfl

end Sys2Proof.Machine
end

section
/-! SET_HEAD: its checks in order, the six values and the cleared history line (R100). -/

namespace Sys2Proof.Machine

/-- Check 2 of SET_HEAD (R100). -/
theorem parseHead_length {ps : List Byte} (h : ps.length ≠ 7) : parseHead ps = .error .badLength := by
  match ps, h with
  | [], _ | [_], _ | [_, _], _ | [_, _, _], _ | [_, _, _, _], _ | [_, _, _, _, _], _ | [_, _, _, _, _, _], _ => rfl
  | _ :: _ :: _ :: _ :: _ :: _ :: _ :: _ :: _, _ => rfl

/-- The head configuration that SET_HEAD makes of its parameters (R100, R178). -/
abbrev headRecord (ps : List Byte) : HeadConfig :=
  ⟨paramByte ps 0, paramWord ps 1, paramByte ps 3, 4 * paramByte ps 4, 8 * paramByte ps 5, 10 * paramByte ps 6⟩

/-- A parameter of SET_HEAD is out of range, the groups do not share the dots in whole bytes, or the two strobe times pass the
ceiling (R99, R100). -/
abbrev headOutOfRange (ps : List Byte) : Prop :=
  paramByte ps 0 < 12 ∨ 24 < paramByte ps 0 ∨ paramWord ps 1 < 64 ∨ 1024 < paramWord ps 1 ∨ paramWord ps 1 % 8 ≠ 0 ∨
    paramByte ps 3 ∉ [1, 2, 4, 8] ∨ paramWord ps 1 / paramByte ps 3 % 8 ≠ 0 ∨ paramWord ps 1 % paramByte ps 3 ≠ 0 ∨
    paramByte ps 5 < 1 ∨ paramByte ps 6 < 1 ∨ 2500 < 4 * paramByte ps 4 + 8 * paramByte ps 5

/-- The groups share the dots in whole bytes (R99). -/
theorem mod_mul_eq_zero_iff (d g : Nat) : d % (8 * g) = 0 ↔ d % 8 = 0 ∧ d / g % 8 = 0 ∧ d % g = 0 := by
  rw [← Nat.dvd_iff_mod_eq_zero, ← Nat.dvd_iff_mod_eq_zero, ← Nat.dvd_iff_mod_eq_zero, ← Nat.dvd_iff_mod_eq_zero]
  constructor
  · intro h
    exact ⟨dvd_of_mul_right_dvd h, Nat.dvd_div_of_mul_dvd (Nat.mul_comm 8 g ▸ h), dvd_of_mul_left_dvd h⟩
  · rintro ⟨-, h, hg⟩
    exact Nat.mul_comm g 8 ▸ Nat.mul_dvd_of_dvd_div hg h

/-- Check 3 of SET_HEAD (R100). -/
theorem parseHead_seven {ps : List Byte} (h : ps.length = 7) :
    parseHead ps = if headOutOfRange ps then .error .badParam else .ok (headRecord ps) := by
  match ps, h with
  | [mhz, d0, d1, groups, pre, main, hold], _ =>
    rw [← ite_not]
    refine if_congr ?_ rfl rfl
    simp only [headOutOfRange, not_or, Decidable.not_not, Nat.not_lt, mod_mul_eq_zero_iff, and_assoc]
    exact ⟨fun ⟨a, b, c, d, e, f, g, i, j, k, l⟩ => ⟨a, b, c, d, f, e, g, i, j, k, l⟩,
      fun ⟨a, b, c, d, f, e, g, i, j, k, l⟩ => ⟨a, b, c, d, e, f, g, i, j, k, l⟩⟩

/-- The checks of SET_HEAD in order, in the terms of the claims (R100). -/
theorem setHeadCheck_eq (ps : List Byte) (s : State) :
    setHeadCheck ps s =
      if s.jobs.front.isSome ∨ s.jobs.back.isSome then .error .badState
      else if ps.length ≠ 7 then .error .badLength
      else if headOutOfRange ps then .error .badParam
      else if 65536 < s.ring.base + s.ring.n * (paramWord ps 1 / 8) * s.ring.h then .error .range
      else .ok (headRecord ps) := by
  unfold setHeadCheck
  rw [if_congr (isEmpty_iff s.jobs) rfl rfl, ite_not]
  by_cases hl : ps.length = 7
  · by_cases hr : headOutOfRange ps
    · simp only [parseHead_seven hl, hl, hr, if_true, not_true, if_false, ne_eq]
    · simp only [parseHead_seven hl, hl, hr, not_true, if_false, ne_eq]
      rfl
  · simp only [parseHead_length hl, hl, ne_eq, not_false_eq_true, if_true]

theorem exec_setHead {s : State} (h : s.admits) :
    exec .setHead s = .next (completeWith (setHeadBody s.port.params (take Config.codeSetHead s))) :=
  congrArg _ (offer_taken h _ _)

/-- Settles O16: the checks in order by `setHeadCheck_eq`, on the jobs and the band zone as before the take. -/
theorem setHeadChecksThenConfigures : Obligations.SetHeadChecksThenConfigures := by
  intro s h
  rw [exec_setHead h]
  simp only [setHeadBody, setHeadCheck_eq, completeWith_checked_ite]
  rfl

end Sys2Proof.Machine
end

section
/-! The groups of a pass: the end of a shift and the end of a pulse, and the pulse that begins (R109 to R111, R116, R118). -/

namespace Sys2Proof.Machine

/-! ### The next group with dots (R99, R110) -/

theorem hasDots_iff (bytes : List Byte) : hasDots bytes = true ↔ ∃ b ∈ bytes, b ≠ 0x00 := by
  simp [hasDots]

/-- A group of the pass has a 1 dot (R99, R109). -/
abbrev Line.groupHasDots (line : Line) (c : HeadConfig) (p : Pass) (k : Nat) : Prop :=
  ∃ b ∈ groupBytes c (line.passBytes p) k, b ≠ 0x00

/-- A pass with no group left: the pre-heat pass goes on to the main shift, the main pass ends the line (R110). -/
def passOver (p : Pass) (line : Line) (s : State) : State :=
  match p with
  | .pre => enterShift .main line s
  | .main => endLine line s

section
variable {s : State} {p : Pass} {line : Line} {start : Nat}

/-- A pass takes up the first group with dots: a pulse of it begins, or with HOT asserted the pass is held (R110, R118). -/
theorem takeUpGroup_dots {k : Nat} (hstart : start ≤ k) (hk : k ≤ s.headCfg.groups) (hdots : line.groupHasDots s.headCfg p k)
    (hfirst : ∀ i, start ≤ i → i < k → ¬ line.groupHasDots s.headCfg p i) :
    takeUpGroup p start line s =
      if s.hot then s.withMode (.inFlight (.hold p s.headCfg.holdPeriods) { line with group := k })
      else startPulse p { line with group := k } s := by
  have hnext : nextGroup s.headCfg (line.passBytes p) start = some k := by
    refine List.find?_range'_eq_some.mpr ⟨(hasDots_iff _).mpr hdots, List.mem_range'_1.mpr ⟨hstart, by omega⟩, fun i hi hlt => ?_⟩
    rw [Bool.not_eq_true', ← Bool.not_eq_true, hasDots_iff]
    exact hfirst i hi hlt
  simp only [takeUpGroup, hnext]

theorem takeUpGroup_blank (hblank : ∀ i, start ≤ i → i ≤ s.headCfg.groups → ¬ line.groupHasDots s.headCfg p i) :
    takeUpGroup p start line s = passOver p line s := by
  have hnext : nextGroup s.headCfg (line.passBytes p) start = none := by
    refine List.find?_eq_none.mpr fun i hi => ?_
    obtain ⟨hlow, hhigh⟩ := List.mem_range'_1.mp hi
    rw [hasDots_iff]
    exact hblank i hlow (by omega)
  cases p <;> simp only [takeUpGroup, hnext, passOver]

end

/-! ### A pulse begun (R110, R111) -/

/-- A pulse begun posts PRINT_STARTED at the job's first, as far as the queue has room (R111, R153). -/
theorem startPulse_eq (p : Pass) (line : Line) (s : State) :
    let begun : State :=
      { s with head := { s.head with mode := .inFlight (.strobe p (s.headCfg.pulsePeriods p)) line, started := true } }
    startPulse p line s =
      if s.head.started then begun
      else if s.reports.records.length < 16 then
        { begun with reports := { s.reports with records := s.reports.records ++ [reportPrintStarted line.job] } }
      else { begun with port := { s.port with sticky := { s.port.sticky with reportsLost := true } } } := by
  intro begun
  unfold startPulse markStarted
  by_cases hstarted : s.head.started = true
  · rw [if_pos hstarted, if_pos hstarted]
    simp only [State.withMode, begun, hstarted]
  · rw [if_neg hstarted, if_neg hstarted]
    unfold post
    split <;> rfl

/-! ### The two ends -/

theorem endShift_shifting {s : State} {p : Pass} {n : Nat} {line : Line} (hm : s.head.mode = .inFlight (.shift p n) line) :
    endShift s = takeUpGroup p 1 line s := by
  simp only [endShift, hm]

theorem endPulse_strobing {s : State} {p : Pass} {n : Nat} {line : Line} (hm : s.head.mode = .inFlight (.strobe p n) line) :
    endPulse s = if line.ending then abandonLine s else takeUpGroup p (line.group + 1) line s := by
  simp only [endPulse, hm]

/-- Settles O43: the first group with dots by `takeUpGroup_dots`, none by `takeUpGroup_blank`, and the pulse by
`startPulse_eq`. -/
theorem shiftEndBeginsThePass : Obligations.ShiftEndBeginsThePass := by
  refine ⟨?_, fun s p line => startPulse_eq p line s⟩
  intro s p n line hm dots width groupHasDots pulse
  have hexec : ∀ {t : State}, takeUpGroup p 1 line s = t → exec .shiftEnd s = .next t := fun ht =>
    congrArg Host.Outcome.next ((endShift_shifting hm).trans ht)
  refine ⟨fun k hk hg hdots hfirst => ?_, fun hblank => ?_⟩
  · have htakes := takeUpGroup_dots hk hg hdots hfirst
    have hcool : ∀ {t : State}, startPulse p { line with group := k } s = t → s.hot = false → exec .shiftEnd s = .next t :=
      fun ht hhot => hexec (htakes.trans ((if_neg (by rw [hhot]; exact Bool.false_ne_true)).trans ht))
    have hbegun := startPulse_eq p { line with group := k } s
    refine ⟨fun hhot => hexec (htakes.trans (if_pos hhot)), fun hhot hstarted => hcool ?_ hhot,
      fun hhot hstarted hroom => hcool (hbegun.trans ?_) hhot, fun hhot hstarted hfull => hcool (hbegun.trans ?_) hhot⟩
    · rw [hbegun, if_pos hstarted, ← hstarted]
      rfl
    · rw [if_neg (by rw [hstarted]; exact Bool.false_ne_true), if_pos hroom]
      rfl
    · rw [if_neg (by rw [hstarted]; exact Bool.false_ne_true), if_neg (Nat.not_lt.mpr hfull)]
      rfl
  · refine hexec ((takeUpGroup_blank hblank).trans ?_)
    cases p <;> rfl

/-- Settles O44: an ending line by `abandonLine_spec`, and any other by the group after the one strobed. -/
theorem pulseEndTakesUpTheNextGroup : Obligations.PulseEndTakesUpTheNextGroup := by
  refine ⟨fun s j cause p n line hm hend hlatch hj hstate => ?_, ?_⟩
  · obtain ⟨hjobs, hmode, -, hreports⟩ := abandonLine_spec hj hstate hlatch
    exact ⟨_, congrArg Host.Outcome.next ((endPulse_strobing hm).trans (if_pos hend)), hjobs, hmode,
      (abandonLine_labelOnly s).mem, hreports⟩
  · intro s p n line hm hend dots width groupHasDots
    have hexec : ∀ {t : State}, takeUpGroup p (line.group + 1) line s = t → exec .strobePulseEnd s = .next t := fun ht =>
      congrArg Host.Outcome.next ((endPulse_strobing hm).trans ((if_neg (by rw [hend]; exact Bool.false_ne_true)).trans ht))
    refine ⟨fun k hk hg hdots hfirst => hexec (takeUpGroup_dots hk hg hdots hfirst), fun hblank => ?_⟩
    refine hexec ((takeUpGroup_blank hblank).trans ?_)
    cases p <;> rfl

end Sys2Proof.Machine
end

section
/-! The renderer's cursor through the events of the label: it stays, or a look puts it at the start of a band's clearing
(R76, R78, R81). -/

namespace Sys2Proof.Machine

/-- The renderer stands as it did, rests, or is about to clear a band that a look has claimed. -/
def State.KeepsCursor (s t : State) : Prop :=
  t.renderer = s.renderer ∨ ∀ w ∈ t.renderer.work, ∃ n, w.cursor = .clearing n

theorem State.KeepsCursor.refl (s : State) : s.KeepsCursor s := .inl rfl

theorem State.KeepsCursor.trans {s t u : State} (h : s.KeepsCursor t) (k : t.KeepsCursor u) : s.KeepsCursor u := by
  rcases k with k | k
  · rcases h with h | h
    · exact .inl (k.trans h)
    · exact .inr (k ▸ h)
  · exact .inr k

theorem keepsCursor_of_work_none {s t : State} (h : t.renderer.work = none) : s.KeepsCursor t :=
  .inr fun w hw => by
    rw [h] at hw
    cases hw

section
variable {s t : State} (h : s.KeepsCursor t)
include h

/-- No band is completed by what keeps the renderer's cursor (R96). -/
theorem State.KeepsCursor.composed (hs : s.composed = false) : t.composed = false := by
  rcases h with h | h
  · rwa [State.composed, h]
  · cases hr : t.renderer with
    | rendering w =>
      obtain ⟨n, hn⟩ := h w (by rw [hr]; rfl)
      simp [State.composed, hr, hn]
    | _ => simp only [State.composed, hr]

/-- No reading is reached by what keeps the renderer's cursor (R90). -/
theorem State.KeepsCursor.atReading (hs : s.atReading = false) : t.atReading = false := by
  rcases h with h | h
  · rwa [State.atReading, h]
  · cases hr : t.renderer with
    | rendering w =>
      obtain ⟨n, hn⟩ := h w (by rw [hr]; rfl)
      simp [State.atReading, hr, hn]
    | _ => simp only [State.atReading, hr]

end

/-! ### The shared operations (R13 to R21, R78 to R81, R94) -/

theorem look_keepsCursor (s : State) : s.KeepsCursor (look s) := by
  rcases look_cases s with ⟨h, -⟩ | ⟨r, hr, h⟩ | ⟨j, -, -, -, -, h⟩ <;> rw [h]
  · exact .refl s
  · exact keepsCursor_of_work_none hr
  · refine .inr fun w hw => ?_
    obtain rfl := Option.some.inj hw
    exact ⟨_, rfl⟩

theorem freeJob_keepsCursor (tag : Byte) (keep : Bool) (s : State) : s.KeepsCursor (freeJob tag keep s) := by
  unfold freeJob
  rcases abandonWork_cases tag ((s.freeJobBands tag keep).freePlacements tag) with ⟨h, -⟩ | ⟨h, -⟩ <;> rw [h]
  · exact .refl s
  · exact keepsCursor_of_work_none rfl

theorem completeFront_keepsCursor (j : Job) (s : State) : s.KeepsCursor (completeFront j s) := by
  have hposted : s.KeepsCursor (post (reportJobDone j) s) := .inl (post_renderer _ s)
  have hfreed := hposted.trans (freeJob_keepsCursor j.tag false _)
  exact (hfreed.trans (.inl (frontLeaves_renderer _))).trans (look_keepsCursor _)

theorem completeIfDone_keepsCursor (s : State) : s.KeepsCursor (completeIfDone s) := by
  rcases completeIfDone_cases s with h | ⟨j, -, -, -, h⟩ <;> rw [h]
  · exact .refl s
  · exact completeFront_keepsCursor j s

theorem endAbort_keepsCursor (s : State) : s.KeepsCursor (endAbort s) := by
  unfold endAbort
  split
  · split
    · rename_i j _ _ cause _
      have hleft : s.KeepsCursor (frontLeaves (post (reportJobAborted j cause) (s.freeJobBands j.tag false))) :=
        .inl (by simp)
      exact hleft.trans (look_keepsCursor _)
    · exact .refl s
  · exact .refl s

theorem abortFrontAtOnce_keepsCursor (j : Job) (cause : AbortCause) (s : State) :
    s.KeepsCursor (abortFrontAtOnce j cause s) := by
  have hfreed := freeJob_keepsCursor j.tag false s
  have hleft : (freeJob j.tag false s).KeepsCursor (frontLeaves (post (reportJobAborted j cause) (freeJob j.tag false s))) :=
    .inl (by simp)
  exact (hfreed.trans hleft).trans (look_keepsCursor _)

/-! ### A step served from the latch, and the end of a line (R105 to R107, R110, R113, R114, R117) -/

theorem settle_keepsCursor (s : State) : s.KeepsCursor (settle s) := .inl (settle_renderer s)

theorem trailingStep_keepsCursor (s : State) : s.KeepsCursor (trailingStep s) :=
  (completeIfDone_keepsCursor s.clearHistory.advanceDone).trans (settle_keepsCursor _)

theorem startLine_keepsCursor (j : Job) (i : Nat) (s : State) : s.KeepsCursor (startLine j i s) := by
  unfold startLine
  split <;> exact .refl s

theorem underrunStep_keepsCursor (j : Job) (s : State) : s.KeepsCursor (underrunStep j s) := by
  unfold underrunStep
  split
  · have hposted : s.KeepsCursor (post (reportUnderrun j.tag j.done) s.clearHistory.advanceBlank) := .inl (post_renderer _ _)
    exact (hposted.trans (completeIfDone_keepsCursor _)).trans (settle_keepsCursor _)
  · exact (abortFrontAtOnce_keepsCursor j .underrun s).trans (settle_keepsCursor _)

theorem armedStep_keepsCursor (j : Job) (s : State) : s.KeepsCursor (armedStep j s) := by
  unfold armedStep
  split
  · exact trailingStep_keepsCursor s
  · split
    · exact startLine_keepsCursor j _ s
    · exact underrunStep_keepsCursor j s

theorem servedStep_keepsCursor (s : State) : s.KeepsCursor (servedStep s) := by
  unfold servedStep
  split
  · exact settle_keepsCursor s
  · split
    · exact armedStep_keepsCursor _ s
    · exact underrunStep_keepsCursor _ s

theorem serveLatch_keepsCursor (s : State) : s.KeepsCursor (serveLatch s) := by
  unfold serveLatch
  split
  · exact servedStep_keepsCursor { s with head := _ }
  · exact settle_keepsCursor (s.withMode .idle)

theorem releaseBand_keepsCursor (line : Line) (s : State) : s.KeepsCursor (releaseBand line s) := by
  rcases releaseBand_cases line s with h | ⟨b, -, -, h⟩ <;> rw [h]
  · exact .refl s
  · exact look_keepsCursor (s.setBand line.band none)

theorem endAbortOrComplete_keepsCursor (s : State) : s.KeepsCursor (endAbortOrComplete s) := by
  unfold endAbortOrComplete
  split
  · split
    · exact endAbort_keepsCursor s
    · exact completeIfDone_keepsCursor s
  · exact .refl s

theorem endLine_keepsCursor (line : Line) (s : State) : s.KeepsCursor (endLine line s) :=
  ((releaseBand_keepsCursor line (printed line s)).trans (endAbortOrComplete_keepsCursor _)).trans (serveLatch_keepsCursor _)

theorem endFetch_keepsCursor (s : State) : s.KeepsCursor (endFetch s) := by
  unfold endFetch lineFetched
  split
  · split
    · dsimp only
      split <;> exact .refl s
    · exact endLine_keepsCursor _ s
  · exact .refl s

/-! ### The ends of the other operations (R74, R96, R133) -/

theorem finishBand_keepsCursor (s : State) : s.KeepsCursor (finishBand s) := by
  unfold finishBand
  split
  · rename_i w _
    have hresting : s.KeepsCursor (postAll (retiredReports w s.placements) (bandCompleted w { s with mem := composeRest s w })) := by
      refine keepsCursor_of_work_none ?_
      obtain ⟨-, -, -, hrenderer, -⟩ := postAll_label (retiredReports w s.placements)
        (bandCompleted w { s with mem := composeRest s w })
      rw [hrenderer]
      rfl
    exact (hresting.trans (look_keepsCursor _)).trans (settle_keepsCursor _)
  · exact .refl s

theorem endProof_keepsCursor (s : State) : s.KeepsCursor (endProof s) := by
  unfold endProof
  split
  · exact look_keepsCursor (complete _ { s with port := _ })
  · exact .refl s

/-- The ends that an access brings about keep the renderer's cursor, or take it to the start of a band's clearing. -/
theorem due_keepsCursor (s : State) : s.KeepsCursor (due s) := by
  have hclear : s.KeepsCursor (dueClear s) := by
    unfold dueClear
    split
    · split <;> exact .refl s
    · exact .refl s
  have hfetch : ∀ u : State, u.KeepsCursor (dueFetch u) := fun u => by
    unfold dueFetch
    split
    · split
      · exact endFetch_keepsCursor u
      · exact .refl u
    · exact .refl u
  have hband : ∀ u : State, u.KeepsCursor (dueBand u) := fun u => by
    unfold dueBand
    split
    · exact finishBand_keepsCursor u
    · exact .refl u
  have hproof : ∀ u : State, u.KeepsCursor (dueProof u) := fun u => by
    unfold dueProof
    split
    · split
      · exact endProof_keepsCursor u
      · exact .refl u
    · exact .refl u
  exact ((hclear.trans (hfetch _)).trans (hband _)).trans (hproof _)

end Sys2Proof.Machine
end

section
/-! The end of a fetch, by the row and by the internal step (R108, R109). -/

namespace Sys2Proof.Machine

/-! ### The line looked at (R108) -/

/-- A line printed ends alike whatever the line in flight was doing (R110). -/
theorem endLine_withMode (line : Line) (s : State) (m : HeadMode) : endLine line (s.withMode m) = endLine line s := by
  have hprinted : linePrinted line (s.withMode m) = (linePrinted line s).headed m s.head.latch :=
    headed_comm (fun d s => linePrinted_within d s line) (linePrinted_labelOnly line) s m s.head.latch
  rw [endLine_eq, endLine_eq, hprinted, serveLatch_eq, serveLatch_eq, linePrinted_latch]
  rfl

/-- The end of a fetch takes no account of the line as it stood before. -/
theorem lineFetched_withMode (line : Line) (s : State) (m : HeadMode) :
    lineFetched line (s.withMode m) = lineFetched line s := by
  unfold lineFetched
  rw [endLine_withMode]
  rfl

section
variable {line : Line} {s : State}

/-- A line with no 1 dot ends at once (R108). -/
theorem lineFetched_blank (h : ∀ b ∈ line.bytes, b = 0x00) : lineFetched line s = endLine line s := by
  refine if_neg fun hdots => ?_
  obtain ⟨b, hb, hne⟩ := (hasDots_iff _).mp hdots
  exact hne (h b hb)

/-- A line with dots forms the new-dots line, and the pre-heat shift begins where the pre-heat time is not 0 and a dot is new, or
else the main shift (R108). -/
theorem lineFetched_dots (h : ∃ b ∈ line.bytes, b ≠ 0x00) :
    lineFetched line s =
      enterShift (if s.headCfg.preheat = 0 ∨ ∀ b ∈ newDotsOf line.bytes s.head.history, b = 0x00 then .main else .pre)
        { line with newDots := newDotsOf line.bytes s.head.history } s := by
  have hnew : hasDots (newDotsOf line.bytes s.head.history) = false ↔ ∀ b ∈ newDotsOf line.bytes s.head.history, b = 0x00 := by
    simp [hasDots]
  rw [lineFetched, if_pos ((hasDots_iff _).mpr h), if_congr (or_congr Iff.rfl hnew) rfl rfl]
  split <;> rfl

end

/-! ### The rest of the line read (R108, R128) -/

/-- The bytes of a line after one more has been read are the bytes before (R108). -/
theorem fetched_read {line : Line} {w : Nat} (h : line.bytes.length < w) (m : Memory) :
    Line.fetched { line with bytes := line.bytes ++ [Memory.read m (line.addr + line.bytes.length)] } m w = line.fetched m w :=
  congrArg (fun bytes => ({ line with bytes := bytes } : Line)) (line_read (c := ⟨0, line.addr, line.bytes⟩) h m)

/-- The access in progress is the fetch's next read. -/
abbrev State.fetching (s : State) (line : Line) : Prop :=
  s.arbiter.inProgress = some ⟨.fetch, line.addr + line.bytes.length, none, true⟩

section
variable {s : State} {line : Line} (hm : s.head.mode = .inFlight .fetch line)
include hm

/-- The fetch's own access performed reads one byte more (R108). -/
theorem perform_fetching (h : s.fetching line) :
    perform s = ({ s with arbiter := ⟨none, s.arbiter.rotation⟩ } : State).withMode (.inFlight .fetch
      { line with bytes := line.bytes ++ [Memory.read s.mem (line.addr + line.bytes.length)] }) := by
  simp only [perform, h, State.land, progress, hm, if_true]

theorem endFetch_fetching : endFetch s = lineFetched (line.fetched s.mem s.headCfg.lineBytes) s := by
  simp only [endFetch, hm]

/-- The rest of a fetch is the same before and after its next access has been performed (R108). -/
theorem endFetch_perform (h : s.quiet ∨ (line.bytes.length < s.headCfg.dots / 8 ∧ s.fetching line)) :
    endFetch (perform s) =
      lineFetched (line.fetched s.mem s.headCfg.lineBytes) { s with arbiter := ⟨none, s.arbiter.rotation⟩ } := by
  rcases h with hq | ⟨hlt, ha⟩
  · rw [perform_quiet hq, endFetch_fetching hm, ← hq]
  · rw [perform_fetching hm ha, endFetch_fetching (s := State.withMode _ _) rfl, lineFetched_withMode]
    exact congrArg (lineFetched · _) (fetched_read hlt s.mem)

/-- The row performs the access in progress and then what is left of the fetch (R108). -/
theorem exec_lineFetchEnd (hin : s.accessInside = true) (hline : line.addr + s.headCfg.dots / 8 ≤ 65536) :
    exec .lineFetchEnd s = .next (endFetch (perform s)) := by
  have hline' : line.addr + s.headCfg.lineBytes ≤ Config.memSize := hline
  simp only [exec, execLineFetchEnd, hm, hin, hline', decide_true, Bool.and_self, if_true]

/-- The timers of the head channel do not run in a fetch (R109, R110, R118). -/
theorem timers_fetching : timers s = s := by
  simp only [timers, hm]

/-- The end of the fetch is the one end that is due once its last byte has been read, when no band and no PROOF copy is at its
end (R108). -/
theorem due_endFetch (hp : s.phase = .ready) (hlast : s.headCfg.dots / 8 ≤ line.bytes.length) (hband : s.composed = false)
    (hproof : ∀ c ∈ s.port.proof, c.copied.length < s.headCfg.dots / 8) : due s = endFetch s := by
  have hfetch : dueFetch s = endFetch s := by
    simp only [dueFetch, hm]
    exact if_pos hlast
  have hband' : dueBand (endFetch s) = endFetch s := by
    rw [dueBand, (endFetch_keepsCursor s).composed hband, if_neg Bool.false_ne_true]
  rw [due, dueClear_ready hp, hfetch, hband']
  refine dueProof_going fun c hc => ?_
  rw [(endFetch_labelOnly s).headCfg]
  exact hproof c ((endFetch_labelOnly s).proof ▸ hc)

end

/-- The next access of a fetch with bytes to read lies inside memory with its line (R124). -/
theorem accessInside_fetching {s : State} {line : Line} (ha : s.fetching line) (hlt : line.bytes.length < s.headCfg.dots / 8)
    (hline : line.addr + s.headCfg.dots / 8 ≤ 65536) : s.accessInside = true := by
  simp only [State.accessInside, ha, decide_eq_true_eq]
  exact Nat.lt_of_lt_of_le (Nat.add_lt_add_left hlt _) hline

/-- Settles O42: the row by `endFetch_perform` and the cases of `lineFetched`, the internal step by `due_endFetch`. -/
theorem fetchEndChoosesThePass : Obligations.FetchEndChoosesThePass := by
  refine ⟨?_, fun s line hq hp hr hc hm hline hlen ha hproof => ?_⟩
  · intro s line hm hline h read bytes new shifting
    have hin : s.accessInside = true := by
      rcases h with hquiet | ⟨hlt, ha⟩
      · simp only [State.accessInside, hquiet]
      · exact accessInside_fetching ha hlt hline
    have hexec : exec .lineFetchEnd s = .next (lineFetched { line with bytes := bytes } read) := by
      rw [exec_lineFetchEnd hm hin hline, endFetch_perform hm h]
      rfl
    refine ⟨fun hblank => ?_, fun hdots hpre hnew => ?_, fun hdots hmain => ?_⟩
    · rw [hexec, lineFetched_blank hblank]
    · rw [hexec, lineFetched_dots hdots, if_neg]
      · rfl
      · rintro (h0 | hold)
        · exact hpre h0
        · obtain ⟨b, hb, hne⟩ := hnew
          exact hne (hold b hb)
    · rw [hexec, lineFetched_dots hdots]
      exact congrArg (fun p => Host.Outcome.next (enterShift p _ read)) (if_pos hmain)
  · have hlt : line.bytes.length < s.headCfg.dots / 8 := by omega
    have hin := accessInside_fetching ha hlt hline
    have htimers := timers_fetching hm
    have hstep := step_of_timed_access hq (by simp [hp]) hr (by rw [htimers]; exact ha) (by rw [htimers]; exact hin)
    refine ⟨_, _, hstep, exec_lineFetchEnd hm hin hline, ?_⟩
    have hdue : due (perform s) = endFetch (perform s) := by
      rw [perform_fetching hm ha]
      refine due_endFetch (s := State.withMode _ _) rfl hp ?_ hc hproof
      rw [List.length_append, List.length_singleton]
      exact Nat.le_of_eq hlen.symm
    rw [regrant_arbiter, htimers, hdue]

end Sys2Proof.Machine
end

section
/-! ROW_DONE and its capture, and what the window and the pins show of the state (R104, R109, R110, R122, R125, R145, R159, R162,
R173, R177, R181). -/

namespace Sys2Proof.Machine

/-! ### ROW_DONE (R173) -/

/-- A read of offset C returns the low byte of the done row and captures the high byte (R173). -/
theorem rowDoneLowReadOp_eq {s : State} (h : s.phase ≠ .held) :
    rowDoneLowReadOp s = { s with
      dataOut := byteOf s.jobs.frontDone
      port := { s.port with capture := byteOf (s.jobs.frontDone / 256) } } := if_neg h

/-- The low and the high byte of a number, low byte first, give it less a multiple of 65,536. -/
theorem byteOf_add_byteOf_div (n : Nat) : (byteOf n).toNat + 256 * (byteOf (n / 256)).toNat = n % 65536 := by
  simp only [byteOf, BitVec.toNat_ofNat]
  omega

theorem frontDone_mod (t : JobTable) :
    t.frontDone % 65536 = match t.front with
      | some j => j.done % 65536
      | none => 0 := by
  cases hf : t.front <;> simp [JobTable.frontDone, hf]

/-! ### The capture stays (R173) -/

/-- The ROW_DONE capture is as it was. -/
abbrev State.KeepsCapture (s t : State) : Prop := t.port.capture = s.port.capture

theorem perform_capture (s : State) : s.KeepsCapture (perform s) := by
  rcases perform_moved s with ⟨-, h⟩ | ⟨a, m, v, -, h, -⟩
  · rw [h]
  · generalize perform s = t at h
    cases h <;> rfl

theorem finishClear_capture (s : State) : s.KeepsCapture (finishClear s) := by
  unfold finishClear
  split <;> rfl

theorem finishBand_capture (s : State) : s.KeepsCapture (finishBand s) := by
  unfold finishBand
  split
  · exact (bandDone_labelOnly _ _).capture
  · rfl

theorem endProof_capture (s : State) : s.KeepsCapture (endProof s) := by
  unfold endProof
  split
  · exact (look_labelOnly _).capture
  · rfl

theorem setCurrent_capture (g : Segment) (fifo : List Byte) (s : State) : s.KeepsCapture (setCurrent g fifo s) := by
  obtain ⟨up, rep, f, h⟩ := setCurrent_frame g fifo s
  rw [h]

/-- A command other than SOFT_RESET keeps the capture. -/
theorem commanded_capture {ps : List Byte} {s t : State} (h : Commanded ps s t) : s.KeepsCapture t := by
  cases h with
  | openJob p hc => exact (openJobAct_labelOnly hc).capture
  | commit x _ => exact (commitAct_labelOnly x.1 x.2 s).capture
  | closeJob j _ => exact (look_withJobs_labelOnly _ s).capture
  | abortJob j _ => exact (abortJobAct_labelOnly j s).capture
  | loadSegment g =>
    obtain ⟨up, h, -⟩ := loadSegmentAct_frame g s
    rw [h]
    rfl
  | _ => rfl

/-- A CMD write of another code than SOFT_RESET's keeps the capture. -/
theorem writeCmd_capture {code : Byte} (hcode : code ≠ Config.codeSoftReset) (s : State) : s.KeepsCapture (writeCmd code s) := by
  by_cases hheld : s.phase = .held
  · rw [writeCmd_held hheld]
  · unfold writeCmd offer
    rw [if_neg hheld]
    split
    · exact (commanded_capture (bodyOf_commanded hcode s.port.params (take code s))).trans rfl
    · rfl

/-- Every row but the read of offset C and the two resets keeps the capture. -/
theorem exec_capture {c : Instr} {s t : State} (hwf : c.wf = true) (hread : c ≠ .rowDoneLowRead) (hsoft : c ≠ .softReset)
    (hrefused : c ≠ .cmdWriteRefused 0xA5) (hassert : c ≠ .resetAsserted) (hrelease : c ≠ .resetReleased)
    (hexec : exec c s = .next t) : s.KeepsCapture t := by
  have next : ∀ {u : State}, (Host.Outcome.next u : Host.Outcome State Fault Refusal) = .next t → s.KeepsCapture u →
      s.KeepsCapture t := fun he hu => Host.Outcome.next.inj he ▸ hu
  have guarded : ∀ {b : Bool} {u : State}, (if b = true then (.next u : Host.Outcome State Fault Refusal)
      else .fault .addressOutsideMemory) = .next t → s.KeepsCapture u → s.KeepsCapture t := fun {b u} he hu => by
    cases b with
    | false => cases he
    | true => exact next he hu
  cases c with
  | softReset | rowDoneLowRead | resetAsserted | resetReleased => contradiction
  | setHead | setBands | defineGlyph | restoreGlyph | openJob | place | withdraw | commit | closeJob | abortJob | queryJob
  | loadSegment | stopUpload | proof => exact next hexec (writeCmd_capture (by decide) s)
  | unknownCommand code =>
    refine next hexec (writeCmd_capture ?_ s)
    rintro rfl
    exact absurd hwf (by decide)
  | cmdWriteRefused code => exact next hexec (writeCmd_capture (fun he => hrefused (by rw [he])) s)
  | paramWrite v =>
    refine next hexec ?_
    unfold paramWriteOp
    split
    · rfl
    · split <;> rfl
  | answerRead =>
    refine next hexec ?_
    unfold answerReadOp
    split
    · rfl
    · split <;> rfl
  | dataWrite v =>
    refine next hexec ?_
    unfold dataWriteOp
    split
    · rfl
    · split <;> rfl
  | dataRead =>
    refine next hexec ?_
    unfold dataReadOp
    split
    · rfl
    · split
      · split
        · exact setCurrent_capture _ _ { s with dataOut := _ }
        · rfl
      · rfl
  | reportRead =>
    refine next hexec ?_
    unfold reportReadOp
    split <;> rfl
  | irqPendWrite v =>
    refine next hexec ?_
    unfold irqPendWriteOp
    split <;> rfl
  | irqEnWrite v =>
    refine next hexec ?_
    unfold irqEnWriteOp
    split <;> rfl
  | stickyWrite v =>
    refine next hexec ?_
    unfold stickyWriteOp
    split <;> rfl
  | registerWriteDiscarded offset v =>
    refine next hexec ?_
    rw [writeRegister_discarded (List.contains_iff_mem.mp hwf)]
  | lineStep => exact next hexec (lineStepOp_labelOnly s).capture
  | hotChange level =>
    refine next hexec ?_
    unfold hotChangeOp
    dsimp only
    split
    · rfl
    · split
      · rfl
      · split
        · rfl
        · exact (releaseHold_labelOnly _).capture
  | paperChange level =>
    refine next hexec ?_
    unfold paperChangeOp
    dsimp only
    split
    · rfl
    · split <;> rfl
  | shiftEnd => exact next hexec (endShift_labelOnly s).capture
  | strobePulseEnd => exact next hexec (endPulse_labelOnly s).capture
  | hotHoldExpire => exact next hexec (expireHold_labelOnly s).capture
  | powerOnClearComplete =>
    simp only [exec, execPowerOnClearComplete] at hexec
    split at hexec
    · exact guarded hexec ((finishClear_capture _).trans (perform_capture s))
    · exact next hexec rfl
  | lineFetchEnd =>
    simp only [exec, execLineFetchEnd] at hexec
    split at hexec
    · exact guarded hexec ((endFetch_labelOnly _).capture.trans (perform_capture s))
    · exact next hexec rfl
  | bandComplete =>
    simp only [exec, execBandComplete] at hexec
    split at hexec
    · exact guarded hexec ((finishBand_capture _).trans (perform_capture s))
    · exact next hexec rfl
  | proofCopyComplete =>
    simp only [exec, execProofCopyComplete] at hexec
    split at hexec
    · exact guarded hexec ((endProof_capture _).trans (perform_capture s))
    · exact next hexec rfl
  | uploadStore =>
    simp only [exec, execUploadStore] at hexec
    split at hexec
    · split at hexec
      · refine guarded hexec ?_
        split
        · exact perform_capture s
        · exact (setCurrent_capture _ _ _).trans (perform_capture s)
      · exact next hexec rfl
    · exact next hexec rfl
  | uploadPrefetch =>
    simp only [exec, execUploadPrefetch] at hexec
    split at hexec
    · split at hexec
      · refine guarded hexec ?_
        split <;> exact perform_capture s
      · exact next hexec rfl
    · exact next hexec rfl

/-- The internal step does nothing, takes a reading, or is a period (log entry 5). -/
theorem tick_cases {s t : State} (h : tick s = .next t) :
    t = s ∨ t = regrant (due (takeReading s)) ∨ t = regrant (due (perform (grant (timers s)))) := by
  unfold tick at h
  split at h
  · exact .inl (Host.Outcome.next.inj h).symm
  · split at h
    · exact .inr (.inl (Host.Outcome.next.inj h).symm)
    · dsimp only at h
      split at h
      · exact .inr (.inr (Host.Outcome.next.inj h).symm)
      · cases h

theorem step_idle {s : State} (h : s.pending = []) : step s = tick s := by simp only [step, h]

theorem due_capture (s : State) : s.KeepsCapture (due s) := by
  have hclear : s.KeepsCapture (dueClear s) := by
    unfold dueClear
    split
    · split <;> rfl
    · rfl
  have hfetch : ∀ u : State, u.KeepsCapture (dueFetch u) := fun u => by
    unfold dueFetch
    split
    · split
      · exact (endFetch_labelOnly u).capture
      · rfl
    · rfl
  have hband : ∀ u : State, u.KeepsCapture (dueBand u) := fun u => by
    unfold dueBand
    split
    · exact finishBand_capture u
    · rfl
  have hproof : ∀ u : State, u.KeepsCapture (dueProof u) := fun u => by
    unfold dueProof
    split
    · split
      · exact endProof_capture u
      · rfl
    · rfl
  exact (hproof _).trans ((hband _).trans ((hfetch _).trans hclear))

theorem regrant_due_capture (s : State) : s.KeepsCapture (regrant (due s)) := by
  rw [regrant_arbiter]
  exact due_capture s

/-- The internal step keeps the capture. -/
theorem tick_capture {s t : State} (h : tick s = .next t) : s.KeepsCapture t := by
  rcases tick_cases h with rfl | rfl | rfl
  · rfl
  · refine (regrant_due_capture _).trans ?_
    unfold takeReading
    split <;> rfl
  · exact (regrant_due_capture _).trans ((perform_capture _).trans
      ((grant_labelOnly _).capture.trans (timers_labelOnly s).capture))

/-! ### STATUS, DREQ, INT and FEEDREQ (R104, R145, R159, R162, R177) -/

theorem dataReady_iff (u : Upload) :
    u.dataReady = true ↔
      (∃ g ∈ u.cur, g.direction = .dirIn ∧ u.fifo.length < 8 ∧ u.fifo.length < g.bytesLeft) ∨
        ∃ g ∈ u.cur, g.direction = .dirOut ∧ u.fifo ≠ [] := by
  cases hg : u.cur with
  | none => simp [Upload.dataReady, hg]
  | some g => cases hd : g.direction <;> simp [Upload.dataReady, Upload.room, hg, hd]

theorem sticky_any_iff (f : Sticky) : f.any = true ↔ f ≠ ⟨false, false, false, false, false⟩ := by
  obtain ⟨a, b, c, d, e⟩ := f
  cases a <;> cases b <;> cases c <;> cases d <;> cases e <;> decide

section
variable {s : State} (h : s.phase ≠ .held)
include h

/-- Offset 0, bit by bit (R162, R177). -/
theorem readRegister_status_getLsbD (i : Nat) : (s.readRegister 0x0).getLsbD i =
    [s.isReady, s.port.busy, decide (s.port.params.length < 48), s.upload.dataReady, !s.reports.records.isEmpty, s.hot, s.paper,
      s.port.sticky.any].getD i false := by
  rw [show s.readRegister 0x0 = s.statusByte from if_neg h, State.statusByte, byteOf_flags, BitVec.getLsbD_ofBoolListLE]

theorem dreq_eq : s.dreq = s.upload.dataReady := by
  simp [State.dreq, h]

theorem irqLine_iff : s.irqLine = true ↔
    (s.reports.records ≠ [] ∧ s.irq.enable.report = true) ∨
      ((s.upload.cur.isSome = true ∧ s.upload.nxt = none) ∧ s.irq.enable.uploadNext = true) ∨
      (s.irq.input = true ∧ s.irq.enable.input = true) ∨ (s.irq.done = true ∧ s.irq.enable.done = true) := by
  rw [← sources_report_iff, ← nextWanted_iff]
  simp [State.irqLine, State.sources, h, or_assoc]

theorem feedreq_iff : s.feedreq = true ↔ s.head.mode = .armed ∧ s.paper = true := by
  simp [State.feedreq, h]

end

/-! ### The head's pins while RESET is asserted and with no line in flight (R122, log entry 17) -/

theorem strobe_iff (s : State) (k : Nat) : s.strobe k = true ↔
    s.phase ≠ .held ∧ ∃ p n line, s.head.mode = .inFlight (.strobe p n) line ∧ line.group = k := by
  cases hm : s.head.mode with
  | inFlight phase line => cases phase <;> simp [State.strobe, hm]
  | _ => simp [State.strobe, hm]

section
variable {s : State} (h : s.phase = .held ∨ s.head.mode.flight = none)
include h

theorem strobe_inactive (k : Nat) : s.strobe k = false := by
  refine Bool.eq_false_iff.mpr fun hk => ?_
  obtain ⟨hheld, p, n, line, hm, -⟩ := (strobe_iff s k).mp hk
  rcases h with h | h
  · exact hheld h
  · rw [hm] at h
    cases h

/-- With no strobe line driven the shift, too, stands still: no latch pulse, no dot and no clock. -/
theorem shift_inactive : s.latchPulse = false ∧ s.sdata = false ∧ s.sclk = Config.sclkIdle := by
  cases hm : s.head.mode with
  | inFlight phase line =>
    have hheld : s.phase = .held := h.resolve_right (by simp [hm, HeadMode.flight])
    cases phase <;> simp [State.latchPulse, State.sdata, State.sclk, hm, hheld]
  | _ => simp [State.latchPulse, State.sdata, State.sclk, hm]

end

/-! ### The head's pins in a shift (R109, R125) -/

section
variable {s : State} (h : s.phase ≠ .held) {p : Pass} {period i : Nat} (hi : i < 4) {line : Line}
  (hm : s.head.mode = .inFlight (.shift p (4 * (s.headCfg.dots + 1) - (4 * period + i))) line)
include h hi hm

/-- The latch pulse stands on the shift-clock period after the last dot (R109). -/
theorem latchPulse_shifting (hp : period ≤ s.headCfg.dots) : s.latchPulse = decide (period = s.headCfg.dots) := by
  simp only [State.latchPulse, hm, ne_eq, h, not_false_eq_true, decide_true, Bool.true_and]
  exact decide_eq_decide.mpr (by omega)

/-- SDATA gives the dot column of the shift-clock period, and is inactive in the latch pulse (R109, log entry 17). -/
theorem sdata_shifting (hp : period ≤ s.headCfg.dots) : s.sdata =
    (decide (period < s.headCfg.dots) && ((line.passBytes p).getD (period / 8) 0x00).getMsbD (period % 8)) := by
  have hc : (4 * (s.headCfg.dots + 1) - (4 * (s.headCfg.dots + 1) - (4 * period + i))) / 4 = period := by omega
  simp only [State.sdata, hm, hc, ne_eq, h, not_false_eq_true, decide_true, Bool.true_and, dotOf]

/-- In the period of a dot the clock is active in the CLKIN periods of its waveform (R109). -/
theorem sclk_shifting (hp : period < s.headCfg.dots) : s.sclk = xor Config.sclkIdle (sclkActive i) := by
  have hc : (4 * (s.headCfg.dots + 1) - (4 * (s.headCfg.dots + 1) - (4 * period + i))) % 4 = i := by omega
  have hlatch : s.latchPulse = false := by
    rw [latchPulse_shifting h hi hm (Nat.le_of_lt hp)]
    exact decide_eq_false (Nat.ne_of_lt hp)
  simp only [State.sclk, hm, hc, h, hlatch, if_false, Bool.false_eq_true]

end

theorem xor_ne_left_iff (idle active : Bool) : (xor idle active ≠ idle) ↔ active = true := by
  cases idle <;> cases active <;> decide

theorem xor_eq_left_iff (idle active : Bool) : (xor idle active = idle) ↔ active = false := by
  cases idle <;> cases active <;> decide

/-- Settles O8: the capture by `exec_capture` and `tick_capture`, STATUS bit by bit, and the head's pins by what the head channel
is doing. -/
theorem rowDoneReadsWithoutTearing : Obligations.RowDoneReadsWithoutTearing := by
  refine ⟨fun s h => ?_, fun c s t hwf hread hsoft hrefused hassert hrelease => exec_capture hwf hread hsoft hrefused hassert hrelease,
    fun s t hq hstep => tick_capture ((step_idle hq).symm.trans hstep), fun s h => ?_, fun s => ⟨fun h => ?_, fun h => ?_⟩, ?_,
    strobe_iff⟩
  · refine ⟨_, congrArg Host.Outcome.next (rowDoneLowReadOp_eq h), rfl, ?_⟩
    refine Eq.trans ?_ ((byteOf_add_byteOf_div s.jobs.frontDone).trans (frontDone_mod s.jobs))
    exact congrArg (fun b : Byte => (byteOf s.jobs.frontDone).toNat + 256 * b.toNat) (if_neg h)
  · intro status dataReady
    have hstatus := readRegister_status_getLsbD h
    refine ⟨?_, ?_, ?_, ?_, ?_, ?_, ?_, ?_, ?_, (intPin_low s).trans (irqLine_iff h), feedreq_iff h⟩
    · rw [hstatus]
      exact decide_eq_true_iff
    · rw [hstatus]
      rfl
    · rw [hstatus]
      exact decide_eq_true_iff
    · rw [hstatus]
      exact dataReady_iff s.upload
    · rw [hstatus]
      exact sources_report_iff s
    · rw [hstatus]
      rfl
    · rw [hstatus]
      rfl
    · rw [hstatus]
      exact sticky_any_iff s.port.sticky
    · rw [dreq_eq h]
      exact dataReady_iff s.upload
  · simp [State.dreq, State.intPin, State.irqLine, State.feedreq, h]
  · exact ⟨strobe_inactive h, shift_inactive h⟩
  · intro s p line h shifting
    have hbytes : ∀ k, (line.passBytes p).getD k 0x00 =
        (match p with | .pre => line.newDots | .main => line.bytes).getD k 0x00 := fun k => by
      cases p <;> rfl
    refine ⟨fun dot hdot => ⟨?_, fun i hi => ⟨?_, ?_⟩⟩, fun i hi => ⟨?_, ?_⟩⟩
    · obtain ⟨i, hi, hrise⟩ := sclkActive_rises_once
      refine ⟨i, hi, fun k hk => ?_⟩
      have hclock : ∀ n < 4, (shifting dot n).sclk = xor Config.sclkIdle (sclkActive n) := fun n hn =>
        sclk_shifting (s := shifting dot n) h hn rfl hdot
      rw [hclock k hk, hclock _ (Nat.mod_lt _ (by decide)), xor_ne_left_iff, xor_eq_left_iff]
      exact hrise k hk
    · rw [latchPulse_shifting (s := shifting dot i) h hi rfl (Nat.le_of_lt hdot)]
      exact decide_eq_false (Nat.ne_of_lt hdot)
    · rw [sdata_shifting (s := shifting dot i) h hi rfl (Nat.le_of_lt hdot), hbytes]
      exact (congrArg (· && _) (decide_eq_true hdot)).trans (Bool.true_and _)
    · rw [latchPulse_shifting (s := shifting s.headCfg.dots i) h hi rfl (Nat.le_refl _)]
      exact decide_eq_true rfl
    · rw [sdata_shifting (s := shifting s.headCfg.dots i) h hi rfl (Nat.le_refl _)]
      exact (congrArg (· && _) (decide_eq_false (Nat.lt_irrefl _))).trans (Bool.false_and _)

end Sys2Proof.Machine
end
section
/-! What an internal step leaves as it is, and what it does to the head channel (R109, R118, R130, log entries 5 and 13). -/

namespace Sys2Proof.Machine

/-! ### The internal step, by its two forms -/

/-- A reading of the renderer is one internal step (R90, log entry 5). -/
theorem step_reading {s : State} (hq : s.pending = []) (hp : s.phase ≠ .held) (hr : s.atReading = true) :
    step s = .next (regrant (due (takeReading s))) := by
  simp only [step_idle hq, tick, hp, hr, if_true, if_false]

/-- A period: the timers, the access, which was in progress or is granted first, the ends it brings about, and the next grant
(log entry 13). -/
theorem step_period {s : State} (hq : s.pending = []) (hp : s.phase ≠ .held) (hr : s.atReading = false)
    (hin : (grant (timers s)).accessInside = true) : step s = .next (regrant (due (perform (grant (timers s))))) := by
  simp only [step_idle hq, tick, hp, hr, hin, if_true, if_false, Bool.false_eq_true]

/-! ### What it leaves as it is -/

/-- HOT, the head configuration and the queue are as they were, and a part that was READY is READY. -/
structure State.SameSetting (s t : State) : Prop where
  hot : t.hot = s.hot
  headCfg : t.headCfg = s.headCfg
  pending : t.pending = s.pending
  ready : s.phase = .ready → t.phase = .ready

theorem State.SameSetting.refl (s : State) : s.SameSetting s := ⟨rfl, rfl, rfl, id⟩

theorem State.SameSetting.trans {s t u : State} (h : s.SameSetting t) (k : t.SameSetting u) : s.SameSetting u :=
  ⟨k.hot.trans h.hot, k.headCfg.trans h.headCfg, k.pending.trans h.pending, k.ready ∘ h.ready⟩

theorem LabelOnly.sameSetting {s t : State} (h : LabelOnly s t) : s.SameSetting t :=
  ⟨h.hot, h.headCfg, h.pending, h.phase.trans⟩

theorem perform_sameSetting (s : State) : s.SameSetting (perform s) := by
  refine ⟨?_, (performed s).headCfg, perform_pending s, fun hp => ?_⟩
  · rcases perform_moved s with ⟨-, h⟩ | ⟨a, m, v, -, h, -⟩
    · rw [h]
    · generalize perform s = t at h
      cases h <;> rfl
  · rcases perform_phase s with h | ⟨a, ha, -⟩
    · exact h.trans hp
    · rw [hp] at ha
      cases ha

theorem takeReading_sameSetting (s : State) : s.SameSetting (takeReading s) := by
  unfold takeReading
  split <;> exact ⟨rfl, rfl, rfl, id⟩

theorem finishBand_sameSetting (s : State) : s.SameSetting (finishBand s) := by
  unfold finishBand
  split
  · exact .trans (t := { s with mem := composeRest s _ }) ⟨rfl, rfl, rfl, id⟩ (bandDone_labelOnly _ _).sameSetting
  · exact .refl s

theorem endProof_sameSetting (s : State) : s.SameSetting (endProof s) := by
  unfold endProof
  split
  · rename_i c _
    exact .trans (t := complete ⟨.ok, c.line s.mem s.headCfg.lineBytes⟩ { s with port := { s.port with proof := none } })
      ⟨rfl, rfl, rfl, id⟩ (look_labelOnly _).sameSetting
  · exact .refl s

theorem dueClear_sameSetting (s : State) : s.SameSetting (dueClear s) := by
  unfold dueClear
  split
  · split
    · exact ⟨rfl, rfl, rfl, fun _ => rfl⟩
    · exact .refl s
  · exact .refl s

theorem dueFetch_sameSetting (s : State) : s.SameSetting (dueFetch s) := by
  unfold dueFetch
  split
  · split
    · exact (endFetch_labelOnly s).sameSetting
    · exact .refl s
  · exact .refl s

theorem dueBand_sameSetting (s : State) : s.SameSetting (dueBand s) := by
  unfold dueBand
  split
  · exact finishBand_sameSetting s
  · exact .refl s

theorem dueProof_sameSetting (s : State) : s.SameSetting (dueProof s) := by
  unfold dueProof
  split
  · split
    · exact endProof_sameSetting s
    · exact .refl s
  · exact .refl s

theorem due_sameSetting (s : State) : s.SameSetting (due s) :=
  (((dueClear_sameSetting s).trans (dueFetch_sameSetting _)).trans (dueBand_sameSetting _)).trans (dueProof_sameSetting _)

theorem regrant_sameSetting (s : State) : s.SameSetting (regrant s) := by
  rw [regrant_arbiter]
  exact ⟨rfl, rfl, rfl, id⟩

@[simp] theorem regrant_head (s : State) : (regrant s).head = s.head := by rw [regrant_arbiter]

@[simp] theorem takeReading_head (s : State) : (takeReading s).head = s.head := by
  unfold takeReading
  split <;> rfl

/-! ### The ends of the other operations, and the head channel (R74, R96, R133) -/

@[simp] theorem endProof_head (s : State) : (endProof s).head = s.head := by
  unfold endProof
  split
  · exact look_head _
  · rfl

@[simp] theorem dueProof_head (s : State) : (dueProof s).head = s.head := by
  unfold dueProof
  split
  · split
    · exact endProof_head s
    · rfl
  · rfl

@[simp] theorem dueClear_head (s : State) : (dueClear s).head = s.head := by
  unfold dueClear
  split
  · split <;> rfl
  · rfl

/-- A settle leaves the head channel, or with no line in flight puts it where the job table and the ring say (R103). -/
theorem settle_head (s : State) : (settle s).head = s.head ∨
    (s.head.lineInFlight = false ∧ (settle s).head = { s.head with mode := s.settledMode }) := by
  unfold settle
  split
  · exact .inl rfl
  · rename_i h
    exact .inr ⟨Bool.eq_false_iff.mpr h, rfl⟩

/-- The completion of a band lets the head channel settle (R96, R103). -/
theorem bandDone_head (w : Work) (s : State) : (bandDone w s).head = s.head ∨
    (s.head.lineInFlight = false ∧ ∃ u : State, (bandDone w s).head = { s.head with mode := u.settledMode }) := by
  rw [bandDone_completed]
  obtain ⟨-, -, -, -, hhead, -⟩ := postAll_label (retiredReports w s.placements) (bandCompleted w s)
  have hlook := (look_head (postAll (retiredReports w s.placements) (bandCompleted w s))).trans hhead
  generalize look (postAll (retiredReports w s.placements) (bandCompleted w s)) = u at hlook
  have hu : u.head = s.head := hlook
  rw [← hu]
  exact (settle_head u).imp id fun ⟨hl, h⟩ => ⟨hl, u, h⟩

theorem finishBand_head (s : State) : (finishBand s).head = s.head ∨
    (s.head.lineInFlight = false ∧ ∃ u : State, (finishBand s).head = { s.head with mode := u.settledMode }) := by
  unfold finishBand
  split
  · exact bandDone_head _ { s with mem := composeRest s _ }
  · exact .inl rfl

/-- With a line in flight that is not at the end of its fetch, no end that an access brings about is the head channel's. -/
theorem due_head {s : State} (hl : s.head.lineInFlight = true)
    (hf : ∀ line, s.head.mode = .inFlight .fetch line → line.bytes.length < s.headCfg.dots / 8) : (due s).head = s.head := by
  have hfetch : dueFetch (dueClear s) = dueClear s := dueFetch_going fun line hm => by
    rw [dueClear_head] at hm
    rw [(dueClear_sameSetting s).headCfg]
    exact hf line hm
  have hband : (dueBand (dueClear s)).head = (dueClear s).head := by
    unfold dueBand
    split
    · rcases finishBand_head (dueClear s) with h | ⟨h, -⟩
      · exact h
      · rw [dueClear_head, hl] at h
        cases h
    · rfl
  rw [due, hfetch, dueProof_head, hband, dueClear_head]

end Sys2Proof.Machine
end
section
/-! The phases that count periods, through every step: a pulse begins only with HOT not asserted, and none of them is left longer
than it lasts (R109, R110, R118, R120). -/

namespace Sys2Proof.Machine

/-! ### What a phase counts -/

theorem LinePhase.withPeriods_self {phase : LinePhase} {n : Nat} (h : phase.periods = some n) : phase.withPeriods n = phase := by
  cases phase <;> cases h <;> rfl

theorem LinePhase.withPeriods_withPeriods (phase : LinePhase) (m n : Nat) :
    (phase.withPeriods m).withPeriods n = phase.withPeriods n := by
  cases phase <;> rfl

theorem LinePhase.isStrobe_withPeriods (phase : LinePhase) (n : Nat) : (phase.withPeriods n).isStrobe = phase.isStrobe := by
  cases phase <;> rfl

/-- Nothing is counted: no line is in flight, or it is being fetched. -/
def HeadMode.Uncounted (m : HeadMode) : Prop := ∀ phase line, m = .inFlight phase line → phase = .fetch

/-- A phase that counts its periods in the second state stood in the first, for the same group, with no fewer periods left; or it
has begun, with no more periods than it lasts, and as a pulse with HOT not asserted. -/
def State.CountsFrom (s t : State) : Prop :=
  ∀ phase line n, t.head.mode = .inFlight phase line → phase.periods = some n →
    (∃ m before, s.head.mode = .inFlight (phase.withPeriods m) before ∧ before.group = line.group ∧ n ≤ m) ∨
      (n ≤ phase.most t.headCfg ∧ (phase.isStrobe = true → t.hot = false))

theorem countsFrom_of_mode {s t : State} (h : t.head.mode = s.head.mode) : s.CountsFrom t := fun phase line n hm hn =>
  .inl ⟨n, line, by rw [LinePhase.withPeriods_self hn, ← h, hm], rfl, Nat.le_refl n⟩

theorem countsFrom_of_uncounted {s t : State} (h : t.head.mode.Uncounted) : s.CountsFrom t := fun phase line n hm hn => by
  rw [h phase line hm] at hn
  cases hn

/-- A phase begun for as long as it lasts, a pulse with HOT not asserted. -/
theorem countsFrom_of_begun {s t : State} {phase : LinePhase} {line : Line} (hm : t.head.mode = .inFlight phase line)
    (hn : phase.periods = some (phase.most t.headCfg)) (hhot : phase.isStrobe = true → t.hot = false) : s.CountsFrom t :=
  fun phase' line' n hm' hn' => by
    obtain ⟨rfl, rfl⟩ := HeadMode.inFlight.inj (hm.symm.trans hm')
    exact .inr ⟨Nat.le_of_eq (Option.some.inj (hn'.symm.trans hn)), hhot⟩

theorem State.CountsFrom.trans {s t u : State} (h : s.CountsFrom t) (k : t.CountsFrom u) (hk : t.SameSetting u) :
    s.CountsFrom u := fun phase line n hm hn => by
  rcases k phase line n hm hn with ⟨m, before, hm', hgroup, hle⟩ | hbegun
  · rcases h _ before m hm' (LinePhase.periods_withPeriods hn m) with ⟨m', first, hm'', hgroup', hle'⟩ | ⟨hmost, hhot⟩
    · rw [LinePhase.withPeriods_withPeriods] at hm''
      exact .inl ⟨m', first, hm'', hgroup'.trans hgroup, Nat.le_trans hle hle'⟩
    · rw [LinePhase.most_withPeriods, ← hk.headCfg] at hmost
      rw [LinePhase.isStrobe_withPeriods, ← hk.hot] at hhot
      exact .inr ⟨Nat.le_trans hle hmost, hhot⟩
  · exact .inr hbegun

section
variable {s t : State} (h : s.CountsFrom t)
include h

/-- A pulse of a group that was not in progress has begun with HOT not asserted (R110). -/
theorem State.CountsFrom.pulse (hpulse : t.pulse ≠ none) (hnew : t.pulse ≠ s.pulse) : t.hot = false := by
  cases hm : t.head.mode with
  | inFlight phase line =>
    cases phase with
    | strobe p n =>
      rcases h _ line n hm rfl with ⟨m, before, hm', hgroup, -⟩ | ⟨-, hhot⟩
      · refine absurd ?_ hnew
        simp only [State.pulse, hm, hm', LinePhase.withPeriods, hgroup]
      · exact hhot rfl
    | _ => exact absurd (by simp only [State.pulse, hm]) hpulse
  | _ => exact absurd (by simp only [State.pulse, hm]) hpulse

/-- No phase is left longer than it lasts, where none was (R109, R110, R118). -/
theorem State.CountsFrom.most (hcfg : t.headCfg = s.headCfg)
    (hs : ∀ x ∈ s.head.mode.flight, ∀ n ∈ x.1.periods, n ≤ x.1.most s.headCfg) :
    ∀ x ∈ t.head.mode.flight, ∀ n ∈ x.1.periods, n ≤ x.1.most t.headCfg := by
  intro x hx n hn
  have hm : t.head.mode = .inFlight x.1 x.2 := by
    cases hm : t.head.mode with
    | inFlight phase line =>
      rw [hm] at hx
      obtain rfl := Option.some.inj hx
      rfl
    | _ =>
      rw [hm] at hx
      cases hx
  rcases h x.1 x.2 n hm hn with ⟨m, before, hm', -, hle⟩ | ⟨hmost, -⟩
  · have hbound := hs (x.1.withPeriods m, before) (by rw [hm']; rfl) m (LinePhase.periods_withPeriods hn m)
    rw [LinePhase.most_withPeriods, ← hcfg] at hbound
    exact Nat.le_trans hle hbound
  · exact hmost

end

/-! ### With no line in flight, and at the start of a line (R103, R105 to R107, R113, R114, R117) -/

theorem settledMode_uncounted (s : State) : s.settledMode.Uncounted := fun phase line hm => by
  have hnone := settledMode_flight s
  rw [hm] at hnone
  cases hnone

theorem settle_uncounted {s : State} (h : s.head.mode.Uncounted) : (settle s).head.mode.Uncounted := by
  rcases settle_head s with he | ⟨-, he⟩ <;> rw [he]
  · exact h
  · exact settledMode_uncounted s

theorem settle_countsFrom (s : State) : s.CountsFrom (settle s) := by
  rcases settle_head s with he | ⟨-, he⟩
  · exact countsFrom_of_mode (congrArg Head.mode he)
  · exact countsFrom_of_uncounted (by rw [he]; exact settledMode_uncounted s)

@[simp] theorem abortFrontAtOnce_mode (j : Job) (cause : AbortCause) (s : State) :
    (abortFrontAtOnce j cause s).head.mode = s.head.mode := by simp [abortFrontAtOnce]

section
variable {s : State} (h : s.head.mode.Uncounted)
include h

theorem trailingStep_uncounted : (trailingStep s).head.mode.Uncounted :=
  settle_uncounted (by rw [completeIfDone_mode]; exact h)

theorem underrunStep_uncounted (j : Job) : (underrunStep j s).head.mode.Uncounted := by
  unfold underrunStep
  split
  · exact settle_uncounted (by rw [completeIfDone_mode, post_head]; exact h)
  · exact settle_uncounted (by rw [abortFrontAtOnce_mode]; exact h)

/-- A line started is being fetched (R107). -/
theorem startLine_uncounted (j : Job) (i : Nat) : (startLine j i s).head.mode.Uncounted := by
  unfold startLine
  split
  · intro phase line hm
    exact (HeadMode.inFlight.inj hm).1.symm
  · exact h

theorem armedStep_uncounted (j : Job) : (armedStep j s).head.mode.Uncounted := by
  unfold armedStep
  split
  · exact trailingStep_uncounted h
  · split
    · exact startLine_uncounted h j _
    · exact underrunStep_uncounted h j

theorem servedStep_uncounted : (servedStep s).head.mode.Uncounted := by
  unfold servedStep
  split
  · exact settle_uncounted h
  · split
    · exact armedStep_uncounted h _
    · exact underrunStep_uncounted h _

end

theorem idle_uncounted : HeadMode.Uncounted .idle := fun _ _ hm => by cases hm

theorem serveLatch_uncounted (s : State) : (serveLatch s).head.mode.Uncounted := by
  unfold serveLatch
  split
  · exact servedStep_uncounted idle_uncounted
  · exact settle_uncounted idle_uncounted

/-! ### Shifts, pulses and hot holds (R109 to R111, R116, R118 to R120) -/

theorem enterShift_countsFrom (p : Pass) (line : Line) (s : State) : s.CountsFrom (enterShift p line s) :=
  countsFrom_of_begun (phase := .shift p s.headCfg.shiftPeriods) rfl rfl fun hp => by cases hp

theorem startPulse_countsFrom {p : Pass} {line : Line} {s : State} (h : s.hot = false) :
    s.CountsFrom (startPulse p line s) := by
  have hlabel := startPulse_labelOnly p line s
  refine countsFrom_of_begun (phase := .strobe p (s.headCfg.pulsePeriods p)) (line := line) (by rw [startPulse_head]) ?_
    fun _ => hlabel.hot.trans h
  rw [hlabel.headCfg]
  cases p <;> rfl

theorem endLine_countsFrom (line : Line) (s : State) : s.CountsFrom (endLine line s) :=
  countsFrom_of_uncounted (serveLatch_uncounted _)

theorem abandonLine_countsFrom (s : State) {u : State} : s.CountsFrom (abandonLine u) :=
  countsFrom_of_uncounted (serveLatch_uncounted _)

theorem takeUpGroup_countsFrom (p : Pass) (k : Nat) (line : Line) (s : State) : s.CountsFrom (takeUpGroup p k line s) := by
  unfold takeUpGroup
  split
  · split
    · exact countsFrom_of_begun (phase := .hold p s.headCfg.holdPeriods) rfl rfl fun hp => by cases hp
    · rename_i hhot
      exact startPulse_countsFrom (Bool.eq_false_iff.mpr hhot)
  · split
    · exact enterShift_countsFrom .main line s
    · exact endLine_countsFrom line s

theorem endFetch_countsFrom (s : State) : s.CountsFrom (endFetch s) := by
  unfold endFetch lineFetched
  split
  · split
    · dsimp only
      split <;> exact enterShift_countsFrom _ _ s
    · exact endLine_countsFrom _ s
  · exact countsFrom_of_mode rfl

theorem endShift_countsFrom (s : State) : s.CountsFrom (endShift s) := by
  unfold endShift
  split
  · exact takeUpGroup_countsFrom _ 1 _ s
  · exact countsFrom_of_mode rfl

theorem endPulse_countsFrom (s : State) : s.CountsFrom (endPulse s) := by
  unfold endPulse
  split
  · split
    · exact abandonLine_countsFrom s
    · exact takeUpGroup_countsFrom _ _ _ s
  · exact countsFrom_of_mode rfl

theorem expireHold_countsFrom (s : State) : s.CountsFrom (expireHold s) := by
  unfold expireHold
  split
  · exact abandonLine_countsFrom s
  · exact countsFrom_of_mode rfl

theorem releaseHold_countsFrom {s : State} (h : s.hot = false) : s.CountsFrom (releaseHold s) := by
  unfold releaseHold
  split
  · exact startPulse_countsFrom h
  · exact countsFrom_of_mode rfl

/-- A lost step leaves the pulse in progress to its end, and ends the line otherwise (R116). -/
theorem loseStep_countsFrom {phase : LinePhase} {line : Line} {s : State} (hm : s.head.mode = .inFlight phase line) :
    s.CountsFrom (loseStep phase line s) := by
  rw [loseStep_eq]
  split
  · intro phase' line' n hm' hn
    rw [abortInFlight_mode] at hm'
    obtain ⟨rfl, rfl⟩ := HeadMode.inFlight.inj hm'
    exact .inl ⟨n, line, by rw [LinePhase.withPeriods_self hn, hm], rfl, Nat.le_refl n⟩
  · exact abandonLine_countsFrom s

theorem lineStepOp_countsFrom (s : State) : s.CountsFrom (lineStepOp s) := by
  unfold lineStepOp
  split
  · split
    · exact countsFrom_of_mode rfl
    · rename_i j hm _
      exact countsFrom_of_uncounted (underrunStep_uncounted (by rw [hm]; exact fun _ _ he => by cases he) j)
    · rename_i j hm _
      exact countsFrom_of_uncounted (armedStep_uncounted (by rw [hm]; exact fun _ _ he => by cases he) j)
    · rename_i phase line _ hm
      split
      · exact countsFrom_of_mode rfl
      · split
        · exact loseStep_countsFrom hm
        · exact countsFrom_of_mode rfl
    · exact countsFrom_of_mode rfl
  · exact countsFrom_of_mode rfl

/-- A period takes one from what a phase has left, or is its end (R109, R110, R118). -/
theorem timers_countsFrom (s : State) : s.CountsFrom (timers s) := by
  have going : ∀ {phase : LinePhase} {line : Line} {n : Nat}, s.head.mode = .inFlight phase line → phase.periods = some n →
      s.CountsFrom (s.withMode (.inFlight (phase.withPeriods (n - 1)) line)) := by
    intro phase line n hm hn phase' line' n' hm' hn'
    obtain ⟨rfl, rfl⟩ := HeadMode.inFlight.inj hm'
    rw [LinePhase.periods_withPeriods hn] at hn'
    obtain rfl := Option.some.inj hn'
    exact .inl ⟨n, line, by rw [LinePhase.withPeriods_withPeriods, LinePhase.withPeriods_self hn, hm], rfl, Nat.sub_le n 1⟩
  unfold timers
  split
  · split
    · exact endShift_countsFrom s
    · rename_i hm _
      exact going hm rfl
  · split
    · exact endPulse_countsFrom s
    · rename_i hm _
      exact going hm rfl
  · split
    · exact expireHold_countsFrom s
    · rename_i hm _
      exact going hm rfl
  · exact countsFrom_of_mode rfl

/-! ### The access performed, and the ends it brings about (R128, log entry 13) -/

/-- The byte an access fetches leaves the line being fetched (R108). -/
theorem perform_countsFrom (s : State) : s.CountsFrom (perform s) := by
  rcases perform_head s with h | ⟨line, v, -, -, h⟩
  · exact countsFrom_of_mode (congrArg Head.mode h)
  · refine countsFrom_of_uncounted fun phase line' hm => ?_
    rw [h] at hm
    exact (HeadMode.inFlight.inj hm).1.symm

theorem finishBand_countsFrom (s : State) : s.CountsFrom (finishBand s) := by
  rcases finishBand_head s with h | ⟨-, u, h⟩
  · exact countsFrom_of_mode (congrArg Head.mode h)
  · exact countsFrom_of_uncounted (by rw [h]; exact settledMode_uncounted u)

theorem due_countsFrom (s : State) : s.CountsFrom (due s) := by
  have hclear : s.CountsFrom (dueClear s) := countsFrom_of_mode (by rw [dueClear_head])
  have hfetch : (dueClear s).CountsFrom (dueFetch (dueClear s)) := by
    generalize dueClear s = u
    unfold dueFetch
    split
    · split
      · exact endFetch_countsFrom u
      · exact countsFrom_of_mode rfl
    · exact countsFrom_of_mode rfl
  have hband : (dueFetch (dueClear s)).CountsFrom (dueBand (dueFetch (dueClear s))) := by
    generalize dueFetch (dueClear s) = u
    unfold dueBand
    split
    · exact finishBand_countsFrom u
    · exact countsFrom_of_mode rfl
  have hproof : (dueBand (dueFetch (dueClear s))).CountsFrom (due s) := countsFrom_of_mode (congrArg Head.mode (dueProof_head _))
  exact ((hclear.trans hfetch (dueFetch_sameSetting _)).trans hband (dueBand_sameSetting _)).trans hproof (dueProof_sameSetting _)

theorem regrant_due_countsFrom (s : State) : s.CountsFrom (regrant (due s)) :=
  (due_countsFrom s).trans (countsFrom_of_mode (by rw [regrant_head])) (regrant_sameSetting _)

/-- The internal step counts from the state before it, and leaves HOT and the head configuration. -/
theorem tick_countsFrom {s t : State} (h : tick s = .next t) : s.SameSetting t ∧ s.CountsFrom t := by
  have after : ∀ u : State, u.SameSetting (regrant (due u)) := fun u => (due_sameSetting u).trans (regrant_sameSetting _)
  rcases tick_cases h with rfl | rfl | rfl
  · exact ⟨.refl t, countsFrom_of_mode rfl⟩
  · exact ⟨(takeReading_sameSetting s).trans (after _),
      (countsFrom_of_mode (by rw [takeReading_head])).trans (regrant_due_countsFrom _) (after _)⟩
  · have hgrant : (timers s).SameSetting (grant (timers s)) := (grant_labelOnly _).sameSetting
    have hperform := perform_sameSetting (grant (timers s))
    have hgranted : (timers s).CountsFrom (grant (timers s)) := countsFrom_of_mode (by rw [grant_head])
    exact ⟨(((timers_labelOnly s).sameSetting.trans hgrant).trans hperform).trans (after _),
      (((timers_countsFrom s).trans hgranted hgrant).trans (perform_countsFrom _) hperform).trans
        (regrant_due_countsFrom _) (after _)⟩

end Sys2Proof.Machine
end
section
/-! The rows and the head channel's phases: no pulse begins while HOT is asserted, and no phase is left longer than it lasts
(R109, R110, R118, R120). -/

namespace Sys2Proof.Machine

/-! ### What a row does to the phase of the line in flight -/

/-- What a step does to the phase of the line in flight: it counts from the state before; it ends the line, or starts one; or it
is SET_HEAD, which no job stands beside (R100). -/
inductive HeadEvent (s t : State) : Prop where
  | counts (hcfg : t.headCfg = s.headCfg) (h : s.CountsFrom t)
  | uncounted (h : t.head.mode.Uncounted)
  | configured (hempty : s.jobs.isEmpty = true) (hm : t.head.mode = s.head.mode)

theorem HeadEvent.of_mode {s t : State} (hcfg : t.headCfg = s.headCfg) (hm : t.head.mode = s.head.mode) : HeadEvent s t :=
  .counts hcfg (countsFrom_of_mode hm)

theorem LabelOnly.headEvent {s t : State} (hl : LabelOnly s t) (h : s.CountsFrom t) : HeadEvent s t := .counts hl.headCfg h

theorem SameLabel.headEvent {s t : State} (h : SameLabel s t) : HeadEvent s t :=
  .of_mode h.headCfg (congrArg Head.mode h.head)

/-! ### A CMD write (R6 to R21, R100, R164 to R168, R175) -/

theorem State.CountsFrom.look {s u : State} (h : s.CountsFrom u) : s.CountsFrom (look u) :=
  h.trans (countsFrom_of_mode (by rw [look_head])) (look_labelOnly u).sameSetting

theorem openJobAct_countsFrom (p : OpenParams) (s : State) : s.CountsFrom (openJobAct p s) := by
  unfold openJobAct
  split
  · exact State.CountsFrom.look (settle_countsFrom { s with jobs := _, head := { s.head with history := _, started := false } })
  · exact countsFrom_of_mode (by rw [look_head])

theorem commitAct_countsFrom (j : Job) (row : Nat) (s : State) : s.CountsFrom (commitAct j row s) := by
  unfold commitAct
  split
  · exact countsFrom_of_mode (by rw [look_head])
  · exact countsFrom_of_mode rfl

theorem abortJobAct_countsFrom (j : Job) (s : State) : s.CountsFrom (abortJobAct j s) := by
  unfold abortJobAct
  split
  · split
    · exact countsFrom_of_mode (by rw [abortInFlight_mode])
    · exact (countsFrom_of_mode (by rw [abortFrontAtOnce_mode])).trans (settle_countsFrom _) (settle_labelOnly _).sameSetting
  · exact countsFrom_of_mode (by rw [(abortBack_spec j s).2])

/-- SET_HEAD is taken with no job present (R100). -/
theorem isEmpty_of_setHeadCheck {ps : List Byte} {s : State} {c : HeadConfig} (h : setHeadCheck ps s = .ok c) :
    s.jobs.isEmpty = true := by
  unfold setHeadCheck at h
  split at h
  · assumption
  · cases h

theorem commanded_headEvent {ps : List Byte} {s t : State} (h : Commanded ps s t) : HeadEvent s t := by
  cases h with
  | setHead c hc => exact .configured (isEmpty_of_setHeadCheck hc) rfl
  | openJob p hc => exact .counts (openJobAct_labelOnly hc).headCfg (openJobAct_countsFrom p s)
  | commit x _ => exact .counts (commitAct_labelOnly x.1 x.2 s).headCfg (commitAct_countsFrom x.1 x.2 s)
  | closeJob j _ => exact .of_mode (look_headCfg _) (congrArg Head.mode (look_head _))
  | abortJob j _ => exact .counts (abortJobAct_labelOnly j s).headCfg (abortJobAct_countsFrom j s)
  | loadSegment g =>
    obtain ⟨up, h, -⟩ := loadSegmentAct_frame g s
    rw [h]
    exact .of_mode rfl rfl
  | _ => exact .of_mode rfl rfl

theorem writeCmd_headEvent (code : Byte) (s : State) : HeadEvent s (writeCmd code s) := by
  have ht := writeCmd_written code s
  generalize writeCmd code s = t at ht
  cases ht with
  | held | refused => exact .of_mode rfl rfl
  | softReset _ => exact .uncounted idle_uncounted
  | taken _ _ h =>
    cases commanded_headEvent h with
    | counts hcfg h => exact .counts hcfg h
    | uncounted h => exact .uncounted h
    | configured hempty hm => exact .configured hempty hm

theorem writeRegister_headEvent (offset : BitVec 4) (v : Byte) (s : State) : HeadEvent s (writeRegister offset v s) := by
  unfold writeRegister
  split
  · exact writeCmd_headEvent v s
  · exact (paramWrite_sameLabel v s).headEvent
  · exact (dataWrite_sameLabel v s).headEvent
  · exact (irqPendWrite_sameLabel v s).headEvent
  · exact (irqEnWrite_sameLabel v s).headEvent
  · exact (stickyWrite_sameLabel v s).headEvent
  · exact .of_mode rfl rfl

/-! ### The pins, and the ends of the operations -/

/-- A release of HOT begins the held group's pulse with HOT not asserted (R119). -/
theorem hotChangeOp_headEvent (level : Bool) (s : State) : HeadEvent s (hotChangeOp level s) := by
  unfold hotChangeOp
  dsimp only
  split
  · exact .of_mode rfl rfl
  · split
    · exact .of_mode rfl rfl
    · split
      · exact .of_mode rfl rfl
      · rename_i hlevel
        exact .counts (releaseHold_labelOnly _).headCfg (releaseHold_countsFrom (s := ({ s with hot := level } : State).latchInput)
          (Bool.eq_false_iff.mpr hlevel))

theorem inReset_headEvent (phase : PowerPhase) (s : State) : HeadEvent s (s.inReset phase) := .uncounted idle_uncounted

/-- The access in progress performed, and then an event of the part. -/
theorem headEvent_of_performed {s t : State} (hset : (perform s).SameSetting t) (h : (perform s).CountsFrom t) : HeadEvent s t :=
  .counts ((perform_sameSetting s).trans hset).headCfg ((perform_countsFrom s).trans h hset)

theorem headEvent_of_access {s t : State} (h : SameLabel (perform s) t) : HeadEvent s t := by
  refine .counts (h.headCfg.trans (performed s).headCfg) ?_
  rcases perform_head s with he | ⟨line, v, -, -, he⟩
  · exact countsFrom_of_mode (congrArg Head.mode (h.head.trans he))
  · refine countsFrom_of_uncounted fun phase line' hm => ?_
    rw [h.head, he] at hm
    exact (HeadMode.inFlight.inj hm).1.symm

/-- Every row, by its operation. -/
theorem exec_headEvent {i : Instr} {s t : State} (hexec : exec i s = .next t) : HeadEvent s t := by
  have next : ∀ {u : State}, (Host.Outcome.next u : Host.Outcome State Fault Refusal) = .next t → HeadEvent s u →
      HeadEvent s t := fun he hu => Host.Outcome.next.inj he ▸ hu
  have guarded : ∀ {b : Bool} {u : State}, (if b = true then (.next u : Host.Outcome State Fault Refusal)
      else .fault .addressOutsideMemory) = .next t → HeadEvent s u → HeadEvent s t := fun {b u} he hu => by
    cases b with
    | false => cases he
    | true => exact next he hu
  have unchanged : HeadEvent s s := .of_mode rfl rfl
  cases i with
  | softReset | setHead | setBands | defineGlyph | restoreGlyph | openJob | place | withdraw | commit | closeJob | abortJob
  | queryJob | loadSegment | stopUpload | proof => exact next hexec (writeCmd_headEvent _ s)
  | unknownCommand code => exact next hexec (writeCmd_headEvent code s)
  | cmdWriteRefused code => exact next hexec (writeCmd_headEvent code s)
  | paramWrite v => exact next hexec (paramWrite_sameLabel v s).headEvent
  | answerRead => exact next hexec (answerRead_sameLabel s).headEvent
  | dataWrite v => exact next hexec (dataWrite_sameLabel v s).headEvent
  | dataRead => exact next hexec (dataRead_sameLabel s).headEvent
  | reportRead => exact next hexec (reportRead_sameLabel s).headEvent
  | irqPendWrite v => exact next hexec (irqPendWrite_sameLabel v s).headEvent
  | irqEnWrite v => exact next hexec (irqEnWrite_sameLabel v s).headEvent
  | rowDoneLowRead => exact next hexec (rowDoneLowRead_sameLabel s).headEvent
  | stickyWrite v => exact next hexec (stickyWrite_sameLabel v s).headEvent
  | registerWriteDiscarded offset v => exact next hexec (writeRegister_headEvent offset v s)
  | resetAsserted => exact next hexec (inReset_headEvent _ s)
  | resetReleased =>
    refine next hexec ?_
    unfold resetReleasedOp
    split
    · exact inReset_headEvent _ s
    · exact unchanged
  | lineStep => exact next hexec ((lineStepOp_labelOnly s).headEvent (lineStepOp_countsFrom s))
  | hotChange level => exact next hexec (hotChangeOp_headEvent level s)
  | paperChange level => exact next hexec (paperChange_sameLabel level s).headEvent
  | shiftEnd => exact next hexec ((endShift_labelOnly s).headEvent (endShift_countsFrom s))
  | strobePulseEnd => exact next hexec ((endPulse_labelOnly s).headEvent (endPulse_countsFrom s))
  | hotHoldExpire => exact next hexec ((expireHold_labelOnly s).headEvent (expireHold_countsFrom s))
  | powerOnClearComplete =>
    simp only [exec, execPowerOnClearComplete] at hexec
    split at hexec
    · refine guarded hexec ?_
      unfold finishClear
      split
      · exact headEvent_of_performed ⟨rfl, rfl, rfl, fun _ => rfl⟩ (countsFrom_of_mode rfl)
      · exact headEvent_of_performed (.refl _) (countsFrom_of_mode rfl)
    · exact next hexec unchanged
  | lineFetchEnd =>
    simp only [exec, execLineFetchEnd] at hexec
    split at hexec
    · exact guarded hexec (headEvent_of_performed (endFetch_labelOnly _).sameSetting (endFetch_countsFrom _))
    · exact next hexec unchanged
  | bandComplete =>
    simp only [exec, execBandComplete] at hexec
    split at hexec
    · refine guarded hexec (headEvent_of_performed (.trans (t := State.restServed _ _ _) ⟨rfl, rfl, rfl, id⟩
        (finishBand_sameSetting _)) (finishBand_countsFrom (State.restServed _ _ _)))
    · exact next hexec unchanged
  | proofCopyComplete =>
    simp only [exec, execProofCopyComplete] at hexec
    split at hexec
    · exact guarded hexec (headEvent_of_performed (.trans (t := State.restServed _ _ _) ⟨rfl, rfl, rfl, id⟩
        (endProof_sameSetting _)) (countsFrom_of_mode (congrArg Head.mode (endProof_head (State.restServed _ _ _)))))
    · exact next hexec unchanged
  | uploadStore =>
    simp only [exec, execUploadStore] at hexec
    split at hexec
    · split at hexec
      · refine guarded hexec ?_
        split
        · exact headEvent_of_access (.refl _)
        · exact headEvent_of_access (storeNow_sameLabel _ _ _)
      · exact next hexec unchanged
    · exact next hexec unchanged
  | uploadPrefetch =>
    simp only [exec, execUploadPrefetch] at hexec
    split at hexec
    · split at hexec
      · refine guarded hexec ?_
        split
        · exact headEvent_of_access (.refl _)
        · exact headEvent_of_performed ⟨rfl, rfl, rfl, id⟩ (countsFrom_of_mode rfl)
      · exact next hexec unchanged
    · exact next hexec unchanged

theorem step_headEvent {s t : State} (h : step s = .next t) : HeadEvent s t := by
  cases hp : s.pending with
  | nil =>
    obtain ⟨hset, hcounts⟩ := tick_countsFrom ((step_idle hp).symm.trans h)
    exact .counts hset.headCfg hcounts
  | cons i rest =>
    simp only [step, hp] at h
    cases exec_headEvent h with
    | counts hcfg h => exact .counts hcfg h
    | uncounted h => exact .uncounted h
    | configured hempty hm => exact .configured hempty hm

/-! ### The bounds of the phases -/

/-- With no job present no line is in flight (R103). -/
theorem flight_none_of_isEmpty {s : State} (h : s.headLawful) (hempty : s.jobs.isEmpty = true) : s.head.mode.flight = none := by
  obtain ⟨-, hflight, -⟩ := h
  cases hf : s.head.mode.flight with
  | none => rfl
  | some x =>
    obtain ⟨⟨j, hj, -⟩, -⟩ := hflight x hf
    refine absurd (.inl ?_) ((isEmpty_iff s.jobs).mp hempty)
    rw [hj]
    rfl

theorem periods_of_uncounted {m : HeadMode} (h : m.Uncounted) {x : LinePhase × Line} (hx : x ∈ m.flight) :
    x.1.periods = none := by
  cases m with
  | inFlight phase line =>
    obtain rfl := Option.some.inj hx
    rw [h phase line rfl]
    rfl
  | _ => cases hx

/-! ### The periods of a phase, one by one (R109, R110, R118, R120, log entry 5) -/

/-- A phase that counts its periods belongs to a line in flight that is not being fetched. -/
theorem not_fetch_of_periods {s : State} {phase : LinePhase} {line : Line} {n : Nat} (hm : s.head.mode = .inFlight phase line)
    (hn : phase.periods = some n) : ∀ line', s.head.mode ≠ .inFlight .fetch line' := by
  rintro line' hm'
  obtain ⟨rfl, -⟩ := HeadMode.inFlight.inj (hm.symm.trans hm')
  cases hn

/-- Outside a fetch the head channel asks for nothing (R108, R127). -/
theorem fetchRequest_none {s : State} (h : ∀ line, s.head.mode ≠ .inFlight .fetch line) : fetchRequest s = none := by
  unfold fetchRequest
  split
  · rename_i line hm
    exact absurd hm (h line)
  · rfl

section
variable {s : State} {phase : LinePhase} {line : Line} {n : Nat} (hm : s.head.mode = .inFlight phase line)
  (hn : phase.periods = some n)
include hm hn

/-- The access performed and the ends it brings about leave a phase that counts its periods. -/
theorem regrant_due_perform_head : (regrant (due (perform s))).head = s.head := by
  have hperform : (perform s).head = s.head := by
    rcases perform_head s with h | ⟨line', -, hm', -⟩
    · exact h
    · exact absurd hm' (not_fetch_of_periods hm hn line')
  rw [regrant_head, due_head, hperform]
  · rw [lineInFlight_of_mode (congrArg Head.mode hperform), Head.lineInFlight, hm]
  · intro line' hm'
    rw [hperform] at hm'
    exact absurd hm' (not_fetch_of_periods hm hn line')

/-- A reading of the renderer takes no period. -/
theorem regrant_due_takeReading_head : (regrant (due (takeReading s))).head = s.head := by
  rw [regrant_head, due_head, takeReading_head]
  · rw [takeReading_head, Head.lineInFlight, hm]
  · intro line' hm'
    rw [takeReading_head] at hm'
    exact absurd hm' (not_fetch_of_periods hm hn line')

/-- A period is counted without a change of what the clients ask for. -/
theorem requestOf_withMode (m : Nat) (k : Client) :
    requestOf (s.withMode (.inFlight (phase.withPeriods m) line)) k = requestOf s k := by
  cases k with
  | fetch =>
    have hcounted : ∀ line', (s.withMode (.inFlight (phase.withPeriods m) line)).head.mode ≠ .inFlight .fetch line' :=
      not_fetch_of_periods rfl (LinePhase.periods_withPeriods hn m)
    exact (fetchRequest_none hcounted).trans (fetchRequest_none (not_fetch_of_periods hm hn)).symm
  | rotating k => cases k <;> rfl

end

/-- The access of a period lies inside memory where the one in progress does, or else those that wait (R124). -/
theorem accessInside_grant {s : State} (ha : ∀ a ∈ s.arbiter.inProgress, a.addr < 65536)
    (hr : s.arbiter.inProgress = none → ∀ k r, requestOf s k = some r → r.addr < 65536) : (grant s).accessInside = true := by
  unfold State.accessInside
  split
  · rename_i a hgranted
    refine decide_eq_true ?_
    rcases grant_cases s with h | ⟨c, r, hnone, hc, h⟩ <;> rw [h] at hgranted
    · exact ha a hgranted
    · obtain rfl := Option.some.inj hgranted
      exact hr hnone c r (choice_requestOf hc)
  · rfl

/-- With no client that asks a grant does nothing (R128). -/
theorem grant_nobody {s : State} (h : ∀ k, requestOf s k = none) : grant s = s := by
  rcases grant_cases s with hg | ⟨c, r, -, hc, -⟩
  · exact hg
  · have hnone := h c
    rw [choice_requestOf hc] at hnone
    cases hnone

/-- A state in which no client asks and no operation is at its end is left as it is by the rest of a period. -/
theorem rest_of_period {u : State} (hp : u.phase = .ready) (hq : u.quiet) (hr : ∀ k, requestOf u k = none)
    (hc : u.composed = false) (hproof : u.port.proof = none) (hf : ∀ line, u.head.mode ≠ .inFlight .fetch line) :
    regrant (due (perform (grant u))) = u := by
  have hdue : due u = u := by
    rw [due, dueClear_ready hp, dueFetch_going fun line hm => absurd hm (hf line), dueBand, hc, if_neg Bool.false_ne_true]
    exact dueProof_going fun c hm => by
      rw [hproof] at hm
      cases hm
  rw [grant_nobody hr, perform_quiet hq, hdue, regrant, grant_nobody hr, ite_self]

/-- Settles O59: a pulse that was not in progress and the bounds by `step_headEvent`, the periods by `timers_going` and
`timers_ending`. -/
theorem noPulseBeginsWhileHot : Obligations.NoPulseBeginsWhileHot := by
  refine ⟨fun s t hstep hpulse hnew => ?_, fun s phase line n hq hp hm hn => ⟨fun hr => ?_, fun hr hlong hin hwait => ?_,
    fun hr hlast => ?_⟩, fun s t hlaw hstep hs => ?_⟩
  · cases step_headEvent hstep with
    | counts _ h => exact h.pulse hpulse hnew
    | uncounted h => exact (countsFrom_of_uncounted h).pulse hpulse hnew
    | configured _ hmode => exact (countsFrom_of_mode hmode).pulse hpulse hnew
  · exact ⟨_, step_reading hq (by simp [hp]) hr, regrant_due_takeReading_head hm hn⟩
  · have htimers := timers_going hm hn hlong
    have hinside : (grant (timers s)).accessInside = true := by
      rw [htimers]
      exact accessInside_grant hin fun hquiet k r hk => hwait hquiet k r (requestOf_withMode hm hn _ k ▸ hk)
    refine ⟨_, step_period hq (by simp [hp]) hr hinside, ?_⟩
    have hhead : (grant (timers s)).head = { s.head with mode := .inFlight (phase.withPeriods (n - 1)) line } := by
      rw [grant_head, htimers]
      rfl
    rw [regrant_due_perform_head (congrArg Head.mode hhead) (LinePhase.periods_withPeriods hn _), hhead]
  · have hready : (timers s).phase = .ready := (timers_phase s).trans hp
    refine ⟨timers s, timers_ending hm hn hlast, step_period hq (by simp [hp]) hr, fun hquiet hnobody hc hproof hf => ?_⟩
    have hinside : (grant (timers s)).accessInside = true := by
      rw [grant_nobody hnobody, State.accessInside, hquiet]
    rw [step_period hq (by simp [hp]) hr hinside, rest_of_period hready hquiet hnobody hc hproof hf]
  · have bounded : t.head.mode.Uncounted → ∀ x ∈ t.head.mode.flight, ∀ n ∈ x.1.periods, n ≤ x.1.most t.headCfg :=
      fun h x hx n hn => by
        rw [periods_of_uncounted h hx] at hn
        cases hn
    cases step_headEvent hstep with
    | counts hcfg h => exact h.most hcfg hs
    | uncounted h => exact bounded h
    | configured hempty hmode =>
      refine bounded fun phase line hm => ?_
      have hnone := flight_none_of_isEmpty hlaw.head hempty
      rw [← hmode, hm] at hnone
      cases hnone

end Sys2Proof.Machine
end
section
/-! The arbiter: whom a grant serves, and how long a client waits (R126 to R128, R131). -/

namespace Sys2Proof.Machine

/-! ### The rotating order (R127) -/

theorem Rotating.ahead_eq (position k : Rotating) : Rotating.ahead position k = position.after.idxOf k := by
  cases position <;> rfl

/-- At most two clients stand before any other (R131). -/
theorem Rotating.ahead_le_two (position k : Rotating) : Rotating.ahead position k ≤ 2 := by
  cases position <;> cases k <;> decide

/-- A client served goes to the end, and those behind it move up (R128). -/
theorem Rotating.ahead_served {position i k : Rotating} :
    Rotating.ahead position i < Rotating.ahead position k → Rotating.ahead i k < Rotating.ahead position k := by
  cases position <;> cases i <;> cases k <;> decide

theorem Rotating.mem_after (position k : Rotating) : k ∈ position.after := by
  cases position <;> cases k <;> decide

/-- The first element of a list at which a function answers. -/
theorem findSome?_of_idxOf {α β : Type} [DecidableEq α] {f : α → Option β} {k : α} {b : β} (hf : f k = some b) :
    ∀ {l : List α}, k ∈ l → (∀ i, l.idxOf i < l.idxOf k → f i = none) → l.findSome? f = some b
  | x :: xs, hk, hfirst => by
    by_cases hx : x = k
    · subst hx
      rw [List.findSome?_cons, hf]
    · have hxk : (x :: xs).idxOf k = xs.idxOf k + 1 := List.idxOf_cons_ne xs hx
      have hnone : f x = none := hfirst x (by rw [hxk, List.idxOf_cons_self]; exact Nat.succ_pos _)
      rw [List.findSome?_cons, hnone]
      refine findSome?_of_idxOf hf ((List.mem_cons.mp hk).resolve_left (Ne.symm hx)) fun i hi => ?_
      by_cases hxi : x = i
      · exact hxi ▸ hnone
      · refine hfirst i ?_
        rw [hxk, List.idxOf_cons_ne xs hxi]
        exact Nat.succ_lt_succ hi

/-- The element at which a list's search ends stands before every other element at which the function answers. -/
theorem idxOf_lt_of_findSome? {α β : Type} [DecidableEq α] {f : α → Option β} {l : List α} {i k : α} {b : β}
    (hl : l.findSome? f = some b) (hi : ∀ j, f j = some b → j = i) (hk : (f k).isSome = true) (hne : i ≠ k) :
    l.idxOf i < l.idxOf k := by
  induction l with
  | nil => cases hl
  | cons x xs ih =>
    rw [List.findSome?_cons] at hl
    split at hl
    · rename_i c hx
      obtain rfl := Option.some.inj hl
      obtain rfl := hi x hx
      rw [List.idxOf_cons_self, List.idxOf_cons_ne xs hne]
      exact Nat.succ_pos _
    · rename_i hx
      have hxi : x ≠ i := by
        rintro rfl
        obtain ⟨j, -, hj⟩ := List.exists_of_findSome?_eq_some hl
        rw [hi j hj, hx] at hj
        cases hj
      have hxk : x ≠ k := by
        rintro rfl
        rw [hx] at hk
        cases hk
      rw [List.idxOf_cons_ne xs hxi, List.idxOf_cons_ne xs hxk]
      exact Nat.succ_lt_succ (ih hl)

/-! ### The grant (R128) -/

/-- A rotating client waits at the arbiter (R127). -/
abbrev State.waits (s : State) (k : Rotating) : Prop := (requestOf s (.rotating k)).isSome = true

theorem not_waits_iff {s : State} {k : Rotating} : ¬ s.waits k ↔ requestOf s (.rotating k) = none := by
  simp

/-- A rotating client has been granted an access, and the rotation position is its own (R128). -/
abbrev State.granted (s : State) (k : Rotating) : Prop :=
  (grant s).arbiter.rotation = k ∧ (grant s).arbiter.inProgress.map Access.client = some (.rotating k)

/-- With an access in progress the arbiter grants nothing (R128). -/
theorem grant_busy {s : State} (h : s.arbiter.inProgress ≠ none) : grant s = s := by
  rcases grant_cases s with hg | ⟨c, r, hnone, -⟩
  · exact hg
  · exact absurd hnone h

theorem grant_chosen {s : State} (hq : s.quiet) {c : Client} {r : Request} (h : choice s = some (c, r)) :
    grant s = grantTo c r s := by
  simp only [grant, hq, h]

/-- The fetch that waits is granted, and the rotation stays (R128). -/
theorem grant_fetch {s : State} (hq : s.quiet) {r : Request} (h : fetchRequest s = some r) :
    grant s = { s with arbiter := ⟨some ⟨.fetch, r.addr, r.write, true⟩, s.arbiter.rotation⟩ } :=
  grant_chosen hq (choice_fetch h)

section
variable {s : State} (hq : s.quiet) (hf : fetchRequest s = none)
include hf

/-- With no fetch that waits the choice goes through the rotating order (R128). -/
theorem choice_rotating : choice s =
    (s.arbiter.rotation.after).findSome? fun k => (requestOf s (.rotating k)).map fun r => (.rotating k, r) := by
  simp only [choice, hf]

include hq

/-- The first client that waits in rotating order is granted, and becomes the rotation position (R128). -/
theorem grant_first {k : Rotating} {r : Request} (hk : requestOf s (.rotating k) = some r)
    (hfirst : ∀ i, Rotating.ahead s.arbiter.rotation i < Rotating.ahead s.arbiter.rotation k → requestOf s (.rotating i) = none) :
    grant s = { s with arbiter := ⟨some ⟨.rotating k, r.addr, r.write, true⟩, k⟩ } := by
  refine grant_chosen hq ((choice_rotating hf).trans ?_)
  refine findSome?_of_idxOf (k := k) (by rw [hk]; rfl) (Rotating.mem_after _ k) fun i hi => ?_
  rw [hfirst i (by rwa [Rotating.ahead_eq, Rotating.ahead_eq])]
  rfl

/-- The grants in rotating order, from the client after the rotation position on (R127, R128). -/
theorem granted_in_order {a b c : Rotating} (hafter : s.arbiter.rotation.after = [a, b, c]) :
    (s.waits a → s.granted a) ∧ (¬ s.waits a → s.waits b → s.granted b) ∧
      (¬ s.waits a → ¬ s.waits b → s.waits c → s.granted c) := by
  have granted : ∀ {k r}, choice s = some (.rotating k, r) → s.granted k := fun hc => by
    rw [State.granted, grant_chosen hq hc]
    exact ⟨rfl, rfl⟩
  have hchoice := choice_rotating hf
  rw [hafter] at hchoice
  refine ⟨fun ha => ?_, fun ha hb => ?_, fun ha hb hc => ?_⟩
  · obtain ⟨r, ha⟩ := Option.isSome_iff_exists.mp ha
    exact granted (r := r) (by simp [hchoice, ha])
  · obtain ⟨r, hb⟩ := Option.isSome_iff_exists.mp hb
    exact granted (r := r) (by simp [hchoice, not_waits_iff.mp ha, hb])
  · obtain ⟨r, hc⟩ := Option.isSome_iff_exists.mp hc
    exact granted (r := r) (by simp [hchoice, not_waits_iff.mp ha, not_waits_iff.mp hb, hc])

end

/-- A client that waits stands behind fewer others after every rotating grant that is not its own (R131). -/
theorem ahead_of_grant {s : State} (hq : s.quiet) {k i : Rotating} {a : Access} (hk : s.waits k)
    (ha : (grant s).arbiter.inProgress = some a) (hc : a.client = .rotating i) (hne : i ≠ k) :
    Rotating.ahead (grant s).arbiter.rotation k < Rotating.ahead s.arbiter.rotation k := by
  rcases grant_cases s with hg | ⟨c, r, -, hchoice, hg⟩ <;> rw [hg] at ha ⊢
  · rw [hq] at ha
    cases ha
  · obtain rfl := Option.some.inj ha
    obtain rfl : c = .rotating i := hc
    have hf : fetchRequest s = none := by
      cases hf : fetchRequest s with
      | none => rfl
      | some q =>
        rw [choice_fetch hf] at hchoice
        cases hchoice
    rw [choice_rotating hf] at hchoice
    refine Rotating.ahead_served ?_
    rw [Rotating.ahead_eq, Rotating.ahead_eq]
    refine idxOf_lt_of_findSome? hchoice (fun j hj => ?_) (by rwa [Option.isSome_map]) hne
    obtain ⟨q, -, he⟩ := Option.map_eq_some_iff.mp hj
    cases he
    rfl

end Sys2Proof.Machine
end
section
/-! The fetch period by period: a byte of the line in each, once its own access is the one in progress (R108, R128, R130). -/

namespace Sys2Proof.Machine

/-! ### The renderer in another client's access (R128) -/

/-- Only the renderer's own access moves the renderer (R128). -/
theorem progress_renderer {c : Client} (hc : c ≠ .rotating .renderer) (v : Byte) (s : State) :
    (progress c v s).renderer = s.renderer := by
  cases c with
  | fetch =>
    unfold progress
    dsimp only
    split <;> rfl
  | rotating k =>
    cases k with
    | renderer => exact absurd rfl hc
    | upload =>
      unfold progress
      dsimp only
      split
      · split
        · obtain ⟨up, rep, f, h⟩ := setCurrent_frame _ _ s
          rw [storePerformed, h]
        · rfl
      · rfl
    | port =>
      unfold progress
      dsimp only
      split
      · rfl
      · split <;> rfl

@[simp] theorem land_renderer (s : State) (a : Access) : (s.land a).renderer = s.renderer := by
  unfold State.land
  split <;> rfl

/-- The access in progress lies inside memory, and is no live one of the renderer's (R124, R129). -/
def State.accessTame (s : State) : Prop :=
  ∀ a ∈ s.arbiter.inProgress, a.addr < 65536 ∧ (a.live = true → a.client ≠ .rotating .renderer)

theorem perform_renderer_of_tame {s : State} (h : s.accessTame) : (perform s).renderer = s.renderer := by
  unfold perform
  split
  · rfl
  · rename_i a ha
    dsimp only
    split
    · rename_i hl
      rw [progress_renderer ((h a ha).2 hl), land_renderer]
    · rw [land_renderer]

/-! ### No access begins in the ends that an access brings about (R74, R96, R108, R133) -/

theorem State.KeepsAccess.quiet {s t : State} (h : s.KeepsAccess t) (hs : s.quiet) : t.quiet := by
  rcases h with h | h
  · exact h.trans hs
  · rw [State.quiet, h, hs]
    rfl

theorem dueClear_keepsAccess (s : State) : s.KeepsAccess (dueClear s) := by
  unfold dueClear
  split
  · split <;> exact keepsAccess_of_eq rfl
  · exact .refl s

theorem dueFetch_keepsAccess (s : State) : s.KeepsAccess (dueFetch s) := by
  unfold dueFetch
  split
  · split
    · exact endFetch_keepsAccess s
    · exact .refl s
  · exact .refl s

theorem dueBand_keepsAccess (s : State) : s.KeepsAccess (dueBand s) := by
  unfold dueBand
  split
  · unfold finishBand
    split
    · exact bandDone_keepsAccess _ { s with mem := composeRest s _ }
    · exact .refl s
  · exact .refl s

theorem dueProof_keepsAccess (s : State) : s.KeepsAccess (dueProof s) := by
  unfold dueProof
  split
  · split
    · unfold endProof
      split
      · exact keepsAccess_of_eq (look_arbiter _)
      · exact .refl s
    · exact .refl s
  · exact .refl s

theorem due_keepsAccess (s : State) : s.KeepsAccess (due s) :=
  (((dueClear_keepsAccess s).trans (dueFetch_keepsAccess _)).trans (dueBand_keepsAccess _)).trans (dueProof_keepsAccess _)

/-! ### The end of the fetch leaves the fetch (R108) -/

/-- The head channel fetches no line. -/
def HeadMode.OutOfFetch (m : HeadMode) : Prop := ∀ line, m ≠ .inFlight .fetch line

/-- Offset 9 reads 03h in a fetch alone (R177). -/
theorem HeadMode.OutOfFetch.code {m : HeadMode} (h : m.OutOfFetch) : m.code ≠ 0x03 := by
  cases m with
  | inFlight phase line =>
    cases phase with
    | fetch => exact absurd rfl (h line)
    | shift p n => cases p <;> simp [HeadMode.code]
    | strobe p n => cases p <;> simp [HeadMode.code]
    | hold p n => simp [HeadMode.code]
  | _ => simp [HeadMode.code]

theorem settledMode_outOfFetch (s : State) : s.settledMode.OutOfFetch := fun line hm => by
  have hnone := settledMode_flight s
  rw [hm] at hnone
  cases hnone

/-- With the latch clear a line fetched is shifted, or ends with no line in flight (R108, R110). -/
theorem lineFetched_outOfFetch {s : State} (h : s.head.latch = false) (line : Line) :
    (lineFetched line s).head.mode.OutOfFetch := by
  unfold lineFetched
  split
  · dsimp only
    split <;> exact fun line' hm => by cases hm
  · rw [endLine_eq, serveLatch_of_clear ((linePrinted_latch line s).trans h)]
    exact settledMode_outOfFetch _

theorem dueBand_outOfFetch {s : State} (h : s.head.mode.OutOfFetch) : (dueBand s).head.mode.OutOfFetch := by
  unfold dueBand
  split
  · rcases finishBand_head s with he | ⟨-, u, he⟩ <;> rw [he]
    · exact h
    · exact settledMode_outOfFetch u
  · exact h

/-- The last byte of the line read ends the fetch in the same period (R108). -/
theorem due_outOfFetch {s : State} {line : Line} (hm : s.head.mode = .inFlight .fetch line) (hp : s.phase = .ready)
    (hlatch : s.head.latch = false) (hlast : s.headCfg.dots / 8 ≤ line.bytes.length) : (due s).head.mode.OutOfFetch := by
  have hfetch : dueFetch s = endFetch s := by
    simp only [dueFetch, hm]
    exact if_pos hlast
  rw [due, dueClear_ready hp, hfetch, endFetch_fetching hm, dueProof_head]
  exact dueBand_outOfFetch (lineFetched_outOfFetch hlatch _)

/-! ### The fetch under way (R108, R124) -/

/-- No row waits, and a line of w bytes inside memory is being fetched, of which n have been read; the latch is clear and the
renderer at no reading. -/
structure State.ReadsLine (w n : Nat) (s : State) : Prop where
  pending : s.pending = []
  ready : s.phase = .ready
  reading : s.atReading = false
  latch : s.head.latch = false
  width : s.headCfg.dots / 8 = w
  mode : ∃ line, s.head.mode = .inFlight .fetch line ∧ line.bytes.length = n ∧ line.addr + w ≤ 65536

/-- The access in progress is one that the fetch has been granted (R128). -/
def State.fetchGranted (s : State) : Prop := ∃ a ∈ s.arbiter.inProgress, a.live = true ∧ a.client = .fetch

/-- The fetch's own access performed reads one byte more (R108). -/
theorem perform_head_of_fetchGranted {s : State} {line : Line} (hm : s.head.mode = .inFlight .fetch line) (h : s.fetchGranted) :
    ∃ v, (perform s).head = { s.head with mode := .inFlight .fetch { line with bytes := line.bytes ++ [v] } } := by
  obtain ⟨a, ha, hl, hc⟩ := h
  exact ⟨s.mem.read a.addr, by simp [perform, Option.mem_def.mp ha, hl, hc, progress, hm]⟩

/-- Any other access performed leaves the head channel (R128, R129). -/
theorem perform_head_of_other {s : State} (h : ¬ s.fetchGranted) : (perform s).head = s.head := by
  rcases perform_head s with he | ⟨line, v, -, hfetch, -⟩
  · exact he
  · exact absurd hfetch h

namespace State.ReadsLine
variable {w n : Nat} {s : State} (h : s.ReadsLine w n)
include h

/-- The fetch of a line with bytes to read asks for its next byte, inside memory (R108). -/
theorem request (hn : n < w) : ∃ x, fetchRequest s = some ⟨x, none⟩ ∧ x < 65536 := by
  obtain ⟨line, hm, rfl, hline⟩ := h.mode
  have hlt : line.bytes.length < s.headCfg.lineBytes := hn.trans_eq h.width.symm
  refine ⟨line.addr + line.bytes.length, ?_, by omega⟩
  simp only [fetchRequest, hm, hlt, if_true]

/-- With bytes to read and no access in progress the fetch is granted its next one (R128). -/
theorem grant_of_quiet (hq : s.quiet) (hn : n < w) :
    (grant s).ReadsLine w n ∧ (grant s).fetchGranted ∧ (grant s).accessTame := by
  obtain ⟨x, hx, hlt⟩ := h.request hn
  rw [grant_fetch hq hx]
  exact ⟨⟨h.pending, h.ready, h.reading, h.latch, h.width, h.mode⟩, ⟨_, rfl, rfl, rfl⟩, fun a ha => by
    obtain rfl := Option.some.inj ha
    exact ⟨hlt, fun _ => nofun⟩⟩

/-- The access of a period is the one in progress, or the fetch's own (R128). -/
theorem after_grant (hs : s.accessTame) (hn : n < w) :
    (grant s).ReadsLine w n ∧ (s.fetchGranted → (grant s).fetchGranted) ∧ (grant s).accessTame := by
  by_cases hq : s.quiet
  · obtain ⟨hreads, hgranted, htame⟩ := h.grant_of_quiet hq hn
    exact ⟨hreads, fun _ => hgranted, htame⟩
  · rw [grant_busy hq]
    exact ⟨h, id, hs⟩

/-- The access performed reads a byte of the line if it is the fetch's own, and otherwise none (R128, R129). -/
theorem after_access (hs : s.accessTame) : ∃ m, (s.fetchGranted → m = n + 1) ∧ (perform s).ReadsLine w m := by
  obtain ⟨line, hm, hlen, hline⟩ := h.mode
  have hset := perform_sameSetting s
  have hreading : (perform s).atReading = false := by
    rw [State.atReading, perform_renderer_of_tame hs]
    exact h.reading
  have reads : ∀ {m}, (perform s).head.latch = s.head.latch →
      (∃ line, (perform s).head.mode = .inFlight .fetch line ∧ line.bytes.length = m ∧ line.addr + w ≤ 65536) →
      (perform s).ReadsLine w m := fun hlatch hmode =>
    ⟨hset.pending.trans h.pending, hset.ready h.ready, hreading, hlatch.trans h.latch, hset.headCfg ▸ h.width, hmode⟩
  by_cases hf : s.fetchGranted
  · obtain ⟨v, hv⟩ := perform_head_of_fetchGranted hm hf
    exact ⟨n + 1, fun _ => rfl, reads (by rw [hv]) ⟨_, congrArg Head.mode hv, by simp [hlen], hline⟩⟩
  · have hhead := perform_head_of_other hf
    exact ⟨n, fun h => absurd h hf, reads (congrArg Head.latch hhead) ⟨line, (congrArg Head.mode hhead).trans hm, hlen, hline⟩⟩

/-- After the access of a period the fetch has its next one granted, or its last byte read and its end taken (R108, R128). -/
theorem after_ends (hq : s.quiet) :
    (n < w → (regrant (due s)).ReadsLine w n ∧ (regrant (due s)).fetchGranted ∧ (regrant (due s)).accessTame) ∧
      (w ≤ n → (regrant (due s)).readRegister 0x9 ≠ 0x03) := by
  obtain ⟨line, hm, rfl, hline⟩ := h.mode
  have hset := due_sameSetting s
  refine ⟨fun hn => ?_, fun hn => ?_⟩
  · have hhead : (due s).head = s.head := due_head (by rw [Head.lineInFlight, hm]) fun line' hm' => by
      obtain ⟨-, rfl⟩ := HeadMode.inFlight.inj (hm.symm.trans hm')
      exact hn.trans_eq h.width.symm
    have hreading := (due_keepsCursor s).atReading h.reading
    have hdue : (due s).ReadsLine w line.bytes.length :=
      ⟨hset.pending.trans h.pending, hset.ready h.ready, hreading, hhead ▸ h.latch, hset.headCfg ▸ h.width,
        ⟨line, hhead ▸ hm, rfl, hline⟩⟩
    rw [regrant, hreading, if_neg Bool.false_ne_true]
    exact hdue.grant_of_quiet ((due_keepsAccess s).quiet hq) hn
  · have hout := due_outOfFetch hm h.ready h.latch (h.width.trans_le hn)
    have hready : (regrant (due s)).phase = .ready := (regrant_sameSetting _).ready (hset.ready h.ready)
    have hcode : (regrant (due s)).readRegister 0x9 = (regrant (due s)).head.mode.code := if_neg (by rw [hready]; nofun)
    rw [hcode, regrant_head]
    exact hout.code

/-- A period of the fetch (R108, R128). -/
theorem period (hs : s.accessTame) (hn : n < w) : ∃ m t, step s = .next t ∧ (s.fetchGranted → m = n + 1) ∧
    (m < w → t.ReadsLine w m ∧ t.fetchGranted ∧ t.accessTame) ∧ (w ≤ m → t.readRegister 0x9 ≠ 0x03) := by
  obtain ⟨line, hm, -⟩ := h.mode
  have htimers := timers_fetching hm
  obtain ⟨hreads, hgranted, htame⟩ := h.after_grant hs hn
  obtain ⟨m, hmore, hperformed⟩ := hreads.after_access htame
  have hin : (grant (timers s)).accessInside = true := by
    rw [htimers]
    unfold State.accessInside
    split
    · rename_i a ha
      exact decide_eq_true (htame a ha).1
    · rfl
  have hstep := step_period h.pending (by rw [h.ready]; nofun) h.reading hin
  rw [htimers] at hstep
  exact ⟨m, _, hstep, hmore ∘ hgranted, hperformed.after_ends (performed (grant s)).inProgress⟩

/-- With its own access in progress the fetch completes in as many periods as it has bytes to read (R130). -/
theorem run_granted (hg : s.fetchGranted) (hs : s.accessTame) (hn : n < w) :
    ∃ k ≤ w - n, ∃ t : State, Host.Core.run Sys2Proof.core k s = .next t ∧ t.readRegister 0x9 ≠ 0x03 := by
  obtain ⟨d, hd⟩ : ∃ d, n + d = w := ⟨w - n, by omega⟩
  induction d generalizing n s with
  | zero => omega
  | succ d ih =>
    obtain ⟨m, t, hstep, hmore, hgoes, hends⟩ := h.period hs hn
    obtain rfl := hmore hg
    by_cases hlt : n + 1 < w
    · obtain ⟨hreads, hgranted, htame⟩ := hgoes hlt
      obtain ⟨k, hk, u, hrun, hcode⟩ := ih hreads hgranted htame hlt (by omega)
      exact ⟨k + 1, by omega, u, (run_succ (M := Sys2Proof.core) hstep k).trans hrun, hcode⟩
    · exact ⟨1, by omega, t, run_succ (M := Sys2Proof.core) hstep 0, hends (by omega)⟩

/-- One access may precede the fetch's own (R130). -/
theorem run_fetch (hs : s.accessTame) (hn : n < w) :
    ∃ k ≤ w + 1, ∃ t : State, Host.Core.run Sys2Proof.core k s = .next t ∧ t.readRegister 0x9 ≠ 0x03 := by
  obtain ⟨m, t, hstep, -, hgoes, hends⟩ := h.period hs hn
  by_cases hlt : m < w
  · obtain ⟨hreads, hgranted, htame⟩ := hgoes hlt
    obtain ⟨k, hk, u, hrun, hcode⟩ := hreads.run_granted hgranted htame hlt
    exact ⟨k + 1, by omega, u, (run_succ (M := Sys2Proof.core) hstep k).trans hrun, hcode⟩
  · exact ⟨1, by omega, t, run_succ (M := Sys2Proof.core) hstep 0, hends (by omega)⟩

end State.ReadsLine

/-! ### The obligation -/

/-- Settles O60: the periods of the fetch by `run_fetch`, the grants by `grant_fetch` and `grant_first`, the rotation by
`granted_in_order` and `ahead_of_grant`. -/
theorem fetchEndsWithinWPlusOnePeriods : Obligations.FetchEndsWithinWPlusOnePeriods := by
  refine ⟨fun s line hp hq hm hnone hlatch hr hw hline ha => ?_, fun s => ⟨grant_busy, fun hq => ?_⟩, fun s hq hf => ?_,
    fun s k i a hq hk => ⟨Rotating.ahead_le_two _ k, ahead_of_grant hq hk⟩⟩
  case refine_1 =>
    have h : s.ReadsLine (s.headCfg.dots / 8) 0 := ⟨hq, hp, hr, hlatch, rfl, line, hm, by rw [hnone]; rfl, hline⟩
    exact h.run_fetch ha hw
  case refine_2 =>
    refine ⟨fun r => grant_fetch hq, fun hf => ⟨fun k r => grant_first hq hf, fun hrest => grant_nobody fun c => ?_⟩⟩
    cases c with
    | fetch => exact hf
    | rotating k => exact hrest k
  case refine_3 =>
    intro waits granted
    exact ⟨fun hrot => granted_in_order hq hf (by rw [hrot]; rfl), fun hrot => granted_in_order hq hf (by rw [hrot]; rfl),
      fun hrot => granted_in_order hq hf (by rw [hrot]; rfl)⟩

end Sys2Proof.Machine
end
